-- ==== Sys2Proof/Word.lean ====
section
/-! DEFINITION. Word.lean: the bit vectors the manual names (Introduction, "Units of Memory"), and the byte
lanes of one access (R170). -/

namespace Sys2Proof

/-- One byte lane's worth of data. -/
abbrev Byte := BitVec 8
/-- A word of the host bus and of the memory bus. -/
abbrev Word := BitVec 16
/-- A word address, HA19–HA0 and MA19–MA0: the byte address divided by 2. -/
abbrev WordAddr := BitVec 20
/-- A byte address, 21 bits: the memory is 2 MiB. -/
abbrev ByteAddr := BitVec 21
/-- A block number, the byte address divided by 16: the unit of a queue entry. -/
abbrev BlockNo := BitVec 17

/-- The byte lanes an access enables: HBE0# selects lane 0 (the even byte), HBE1# lane 1 (R170). -/
structure Lanes where
  lane0 : Bool
  lane1 : Bool
  deriving DecidableEq, Repr

/-- A full-word access has both byte enables asserted (R2). -/
def Lanes.full (l : Lanes) : Bool := l.lane0 && l.lane1

/-- An access with neither byte enable asserted (R2). -/
def Lanes.empty (l : Lanes) : Bool := !l.lane0 && !l.lane1

end Sys2Proof
end

