-- ==== Sys2Proof/Syntax.lean ====
section
/-! DEFINITION. Syntax.lean: the commands of the block, one constructor per row of spec/opcode_table.json, in the
table's order.  The table gives no operands; each constructor carries the inputs its rules name. -/

namespace Sys2Proof

/-- The host access in progress over the pass-through path at the first cut (R72). -/
inductive CutAccess where
  /-- No access is in progress. -/
  | none
  /-- A read is in progress (HCS# and HRD# asserted). -/
  | read (addr : WordAddr) (lanes : Lanes)
  /-- A write is presented (HCS# and HWR# asserted) and not yet taken. -/
  | write (addr : WordAddr) (data : Word) (lanes : Lanes)
  deriving DecidableEq, Repr

/-- The commands (operations and events) of the T-640.  An operand `wake` is the level of the WAKE pin at that
instant (R145).  `cycle` is the number of port cycles the tenure in progress has completed at that instant. -/
inductive Instr where
  /-- HOST_READ (R45): a host read of the word `addr` is presented and taken. -/
  | hostRead (addr : WordAddr) (lanes : Lanes) (cycle : BitVec 10)
  /-- HOST_WRITE (R2): a host write is presented. -/
  | hostWrite (addr : WordAddr) (data : Word) (lanes : Lanes)
  /-- HELD_WRITE_DECIDED_AFRESH (R24): the wait of the held write has ended. -/
  | heldWriteDecidedAfresh
  /-- HOST_READ_TENURE_END (R50). -/
  | hostReadTenureEnd (wake : Bool)
  /-- HOST_DIRECT_WRITE_TENURE_END (R11). -/
  | hostDirectWriteTenureEnd (wake : Bool)
  /-- RETIRE_TENURE_END (R40). -/
  | retireTenureEnd
  /-- LINE_FETCH_END (R91). -/
  | lineFetchEnd
  /-- MOVER_STEP_END (R111). -/
  | moverStepEnd
  /-- LINE_PERIOD_BOUNDARY (R76). -/
  | linePeriodBoundary (wake : Bool)
  /-- FRAME_SYNC_ARRIVAL (R85): a rising edge on FSI. -/
  | frameSyncArrival
  /-- FIRST_CUT (R79). -/
  | firstCut (access : CutAccess)
  /-- ENGAGE (R139): its full-word command write is taken. -/
  | engage
  /-- DISENGAGE (R137). -/
  | disengage
  /-- QUIESCE (R142). -/
  | quiesce
  /-- RESUME (R146). -/
  | resume
  /-- COMMIT (R31). -/
  | commit
  /-- FILL (R104). -/
  | fill
  /-- COPY (R105). -/
  | copy
  /-- MOVESTOP (R115). -/
  | movestop
  /-- CLKSEL (R123). -/
  | clksel
  /-- ACK (R156). -/
  | ack
  /-- SETPTR (R157). -/
  | setptr
  /-- UNKNOWN_COMMAND (R153): a full-word COMMAND write of a value that is no command code is taken. -/
  | unknownCommand (code : Word)
  /-- MALFORMED_COMMAND (R154): a COMMAND write that is not a full word is taken. -/
  | malformedCommand (data : Word) (lanes : Lanes)
  /-- ARGUMENT_WRITE (R152): a write to ARGn is taken. -/
  | argumentWrite (n : Fin 6) (data : Word) (lanes : Lanes)
  /-- SETUP_PORT_WRITE (R160): a write to the setup port is taken. -/
  | setupPortWrite (data : Word) (lanes : Lanes)
  /-- STATUS_WORD_WRITE (R171): a host write to status word `k` is presented. -/
  | statusWordWrite (k : Fin 32) (data : Word) (lanes : Lanes)
  /-- WAKE_ARRIVAL (R146): a rising edge of WAKE. -/
  | wakeArrival
  /-- LOSS_OF_XCLK (R130). -/
  | lossOfXclk
  /-- XCLK_CONTINUITY_READY (R126). -/
  | xclkContinuityReady
  /-- MULTIPLIER_LOCKED (R121). -/
  | multiplierLocked
  /-- READINESS_TIMEOUT (R127). -/
  | readinessTimeout
  /-- RESET_ASSERTED (R149).  `cutCompletes` says whether the port cycle the reset cuts completes its memory access,
  which R43, R75 and R118 leave open. -/
  | resetAsserted (cycle : BitVec 10) (cutCompletes : Bool)
  /-- RESET_RELEASED (R134). -/
  | resetReleased
  /-- POWER_ON_RESET (R150), with the levels of the strap pins during power-on. -/
  | powerOnReset (cps : BitVec 3) (cks : BitVec 2)
  /-- MINIMUM_HOLD_ELAPSED (R52). -/
  | minimumHoldElapsed
  /-- PREEMPTED_FETCH_CYCLE_END (R70). -/
  | preemptedFetchCycleEnd
  /-- PANEL_PORT_LINE_SEQUENCE (R95): the line timer reaches `clock`, in the first or second half of that clock. -/
  | panelPortLineSequence (clock : BitVec 12) (secondHalf : Bool)
  /-- STRAP_SAMPLING (R3): the strap pins change to these levels. -/
  | strapSampling (cps : BitVec 3) (cks : BitVec 2)
  deriving DecidableEq, Repr

end Sys2Proof
end

