-- ==== Sys2Proof/Decode.lean ====
section
/-! DEFINITION. Decode.lean: the command a word spells by the bits of spec/opcode_table.json.  No row of the table
gives bits (every "fields" list is empty and no row has "fixed"), so no word spells a command.  The part's own
decoding of COMMAND words (R153) is `commandOfCode` in WellFormed.lean and `controlTaken` in Machine/Control.lean. -/

namespace Sys2Proof

/-- The command that the `nbits` bits of `w` spell by the table: none, since no row of the table gives bits. -/
def decodeTableWord (_nbits _w : Nat) : Option Instr := none

end Sys2Proof
end

