-- ==== Sys2Proof/Config.lean ====
section
/-! DEFINITION. Config.lean: what the manual fixes for every part (sizes, bases, power-on defaults), and the free
values it leaves open. -/

namespace Sys2Proof.Config

/-- The Posted Write Queue never holds more than 64 entries (R19). -/
def queueDepth : Nat := 64

/-- Words of memory: 20-bit word addresses, 2 MiB (Introduction, "Units of Memory"). -/
def memoryWords : Nat := 0x100000

/-- Byte addresses of memory. -/
def memoryBytes : Nat := 0x200000

/-- First byte of the control page for CPS = 0 (R3). -/
def controlBase0 : Nat := 0x1F8000

/-- Bytes of the control page: 4 KiB (R3). -/
def controlBytes : Nat := 0x1000

/-- RCB clocks of XCLK continuity a source needs to be ready (R126, R133, R134). -/
def continuityClocks : Nat := 1024

/-- The power-on defaults of setup fields 0 to 16 (R158, 10.5). -/
def setupDefaults : Vector Word 17 :=
  #v[0x0001, 0x0020, 0x0040, 0x0200, 2, 0x0010, 0, 0, 0, 0, 0, 0, 0, 0, 0, 0, 0]

/-- What a byte of memory that nothing has written reads as.  DESIGN CHOICE, unsafe (log 2): the spec states no
content of the SRAM after power-on. -/
def unwrittenByte : Byte := 0

/-- The CPS straps of `State.reset`.  DESIGN CHOICE, unsafe (log 3): the straps are the board's. -/
def resetCps : BitVec 3 := 0

/-- The CKS straps of `State.reset`.  DESIGN CHOICE, unsafe (log 3). -/
def resetCks : BitVec 2 := 0

/-- FREE VALUE (log 4): the levels of PD5–PD0 in the scan clocks of a line period that follow the column shift.
R95 gives PD5–PD0 for clocks 0 to LINE_WORDS − 1 only.  Applied to the counter `State.free`. -/
opaque freeLanes : Nat → BitVec 6

end Sys2Proof.Config
end

