-- ==== Sys2Proof/Machine/State.lean ====
section
/-! DEFINITION. Machine/State.lean: the state of the T-640, block by block as the manual divides it (Introduction,
"Block Overview"), its reasons to stop, and the state right after a power-on reset. -/

namespace Sys2Proof.Machine

/-! ### Memory -/

/-- Memory: byte address and byte, addresses rising, no entry equal to what an unlisted byte reads as. -/
abbrev Memory := List Host.Cell

/-! ### The Posted Write Queue (Section 2) -/

/-- The generation of a queue entry: when it may reach memory (2.4).  `opn` is OPEN. -/
inductive Generation where
  | direct | opn | pending | retiring
  deriving DecidableEq, Repr

/-- HELD: waiting; WRITING: being written by a retire tenure (R17). -/
inductive EntryState where
  | held | writing
  deriving DecidableEq, Repr

/-- A queue entry (R17).  `bytes` has sixteen positions: position k holds the byte of the block's byte k, or nothing
where the valid mask is clear.  The age is the entry's place in the queue, oldest first (R18). -/
structure Entry where
  block : BlockNo
  bytes : List (Option Byte)
  gen : Generation
  state : EntryState
  deriving DecidableEq, Repr

/-! ### The host bus (Sections 1 and 3) -/

/-- A host write as presented (R2). -/
structure HostWrite where
  addr : WordAddr
  data : Word
  lanes : Lanes
  deriving DecidableEq, Repr

/-- The words of the control page (Section 9, 10.2). -/
inductive ControlWord where
  | command
  | arg (n : Fin 6)
  | setupPort
  | status (k : Fin 32)
  | other
  deriving DecidableEq, Repr

/-- What a held write that is no port claimant waits for (R2, R15, R23, R24). -/
inductive WaitFor where
  /-- An entry leaving the full queue (R24). -/
  | entryLeaves
  /-- The retire tenure of the WRITING entry it would merge into (R23). -/
  | writingEnds
  /-- After the drain cut: its block clear of entries and of mover ranges (R15). -/
  | blockClears
  deriving DecidableEq, Repr

/-- The host access the part holds, if any. -/
inductive HostAccess where
  /-- No access is held. -/
  | none
  /-- A read answered without a tenure, in its minimum hold (R52). -/
  | readHold (addr : WordAddr)
  /-- A read answered by intervention, in its minimum hold (R56). -/
  | interventionHold (word : ControlWord)
  /-- A write taken at its decision, in its minimum hold (R2). -/
  | writeHold (w : HostWrite)
  /-- A read that waits for its tenure: a host read claimant (R50, R61). -/
  | readClaim (addr : WordAddr) (lanes : Lanes)
  /-- A write that waits for its direct tenure: a host direct write claimant (R61). -/
  | writeClaim (w : HostWrite)
  /-- A held write that is no claimant; `due` is set when its wait has ended (R24). -/
  | writeWait (w : HostWrite) (waits : WaitFor) (due : Bool)
  /-- The current tenure serves the access; HWAIT is asserted. -/
  | inTenure
  /-- The access handed over at the first cut, in its tenure; HWAIT is released (R72). -/
  | handedOver
  deriving DecidableEq, Repr

/-- The host side: the access held, whether its minimum hold has elapsed, and the word last driven on HD15–HD0. -/
structure HostBus where
  access : HostAccess
  holdElapsed : Bool
  data : Word
  deriving DecidableEq, Repr

/-! ### The Memory Port Arbiter (Section 4) -/

/-- A tenure with its kind (R60, R62). -/
inductive Tenure where
  /-- A host read of `addr`; it reads the word `chosen` (R50), and the lanes supplied at the grant are given (R51). -/
  | hostRead (addr chosen : WordAddr) (lane0 lane1 : Option Byte)
  /-- A host direct write. -/
  | hostWrite (w : HostWrite)
  /-- A retire tenure of the WRITING entry. -/
  | retire
  /-- The fetch of a line; `preempted` holds the port cycles completed when a host read preempted it (R70). -/
  | lineFetch (line : BitVec 8) (preempted : Option (BitVec 10))
  /-- A FILL step of `k` words (R109). -/
  | fillStep (k : Nat)
  /-- A COPY step of `k` words (R110). -/
  | copyStep (k : Nat)
  deriving DecidableEq, Repr

/-- The fairness toggle (R65). -/
inductive Toggle where
  | hostNext | queueNext
  deriving DecidableEq, Repr

/-- The arbiter's state: the current tenure and the toggle (R60). -/
structure Port where
  tenure : Option Tenure
  toggle : Toggle
  deriving DecidableEq, Repr

/-! ### The Scan Engine and the Panel Port (Section 5) -/

/-- The scan state (R76): OFF, GAP, SHOW. -/
inductive ScanState where
  | off | gap | showing
  deriving DecidableEq, Repr

/-- The sub-phase of a gap (R82 to R87): COUNT, EXTEND, LEAD_IN. -/
inductive SubPhase where
  | count | extend | leadIn
  deriving DecidableEq, Repr

/-- The content kind of a line buffer (R90). -/
inductive LineKind where
  | data | dark | repeated
  deriving DecidableEq, Repr

/-- The state of a line buffer (R90). -/
inductive BufferState where
  | empty | filling | ready | showing
  deriving DecidableEq, Repr

/-- A line buffer (R90). -/
structure LineBuffer where
  line : BitVec 8
  kind : LineKind
  words : List Word
  state : BufferState
  mark : Bool
  aborted : Bool
  deriving DecidableEq, Repr

/-- The Scan Engine's state (5.1).  `fetchDue` is its claim: the line whose fetch is due (R61, R91).  The staged base is
held as the two words TABLE_LO and TABLE_HI as written (R98). -/
structure Scan where
  state : ScanState
  sub : SubPhase
  timer : BitVec 12
  line : BitVec 8
  gapCount : BitVec 8
  ext : BitVec 16
  frames : BitVec 16
  base : ByteAddr
  stagedLo : Word
  stagedHi : Word
  stagedReady : Bool
  walk : ByteAddr
  bufA : LineBuffer
  bufB : LineBuffer
  syncSeen : Bool
  fetchDue : Option (BitVec 8)
  deriving DecidableEq, Repr

/-- The panel and sync outputs (R95, R97).  `poe` says that POE# is asserted; the others are levels. -/
structure Panel where
  pd : BitVec 6
  pck : Bool
  plt : Bool
  pls : BitVec 8
  poe : Bool
  fso : Bool
  deriving DecidableEq, Repr

/-! ### The Block Mover (Section 6) -/

inductive MoverKind where
  | fill | copy
  deriving DecidableEq, Repr

inductive MoverDir where
  | up | down
  deriving DecidableEq, Repr

/-- The mover record (R103).  `active` is the state: ACTIVE or IDLE. -/
structure Mover where
  active : Bool
  kind : MoverKind
  dir : MoverDir
  src : WordAddr
  dst : WordAddr
  length : BitVec 16
  done : BitVec 16
  pattern : Word
  stopReq : Bool
  deriving DecidableEq, Repr

/-! ### The Scan Clock Unit (Section 7) -/

/-- The six clock sources (R120). -/
inductive ClockSource where
  | rcb | rcf | rcs | ext | rcfM | extM
  deriving DecidableEq, Repr

/-- Why a current source is being checked: after a reset with EXT strapped (R134), or after DORMANT (R133). -/
inductive CheckKind where
  | strap | restart
  deriving DecidableEq, Repr

/-- The condition of the current source (R122). -/
inductive Condition where
  | ready
  | checking (why : CheckKind)
  | stopped
  deriving DecidableEq, Repr

/-- The phase of a pending switch (R125): WAIT_READY, READY. -/
inductive SwitchPhase where
  | waitReady | ready
  deriving DecidableEq, Repr

/-- A pending switch (R125).  The factor is 0 for an unmultiplied target. -/
structure PendingSwitch where
  target : ClockSource
  factor : BitVec 5
  phase : SwitchPhase
  deriving DecidableEq, Repr

inductive MultState where
  | off | locking | locked
  deriving DecidableEq, Repr

inductive MultInput where
  | rcf | xclk
  deriving DecidableEq, Repr

/-- The multiplier (R121). -/
structure Multiplier where
  state : MultState
  input : MultInput
  factor : BitVec 5
  deriving DecidableEq, Repr

/-- The Scan Clock Unit's state.  `timer` is the readiness timer: stopped, or its count in RCB clocks as of the unit's
last event (log 19). -/
structure Clock where
  source : ClockSource
  cond : Condition
  switch : Option PendingSwitch
  mult : Multiplier
  timer : Option (BitVec 14)
  deriving DecidableEq, Repr

/-! ### The Interposer Controller (Sections 8 and 9) -/

inductive DrainTarget where
  | dormant | passive
  deriving DecidableEq, Repr

/-- The interposer state (R136).  DRAINING carries its drain target and whether the drain cut has been made (R80). -/
inductive IState where
  | passive | starting | running
  | draining (target : DrainTarget) (afterCut : Bool)
  | dormant
  deriving DecidableEq, Repr

/-- The sharing modes (R9). -/
inductive Sharing where
  | direct | frame | commit
  deriving DecidableEq, Repr

/-- The frame sync roles (R9). -/
inductive Role where
  | none | leader | follower
  deriving DecidableEq, Repr

/-- The mode in force (R9). -/
structure Mode where
  sharing : Sharing
  preempt : Bool
  role : Role
  deriving DecidableEq, Repr

/-- The results of a command write (R155). -/
inductive Result where
  | none | done | started | busy | badState | badMode | badArg | badSetup | conflict | badSwitch | malformed | unknown
  deriving DecidableEq, Repr

/-- What the Interposer Controller holds. -/
structure Controller where
  istate : IState
  mode : Mode
  setup : Vector Word 17
  ptr : Fin 17
  setupFault : Option (Fin 16)
  args : Vector Word 6
  lastCode : Word
  lastResult : Result
  count : BitVec 16
  events : BitVec 13
  deriving DecidableEq, Repr

/-! ### Pins -/

/-- Input pins whose level the part uses, and the straps as last sampled (R3, R134, R145).  `reset` says that RESET# is
asserted; `cpsPins` and `cksPins` are the levels on the strap pins. -/
structure Pins where
  reset : Bool
  cpsPins : BitVec 3
  cksPins : BitVec 2
  cps : BitVec 3
  cks : BitVec 2
  wake : Bool
  deriving DecidableEq, Repr

/-! ### The whole machine -/

/-- The state of the T-640: the queue of waiting commands, memory, and each block's own state. -/
structure State where
  pending : List Instr
  mem : Memory
  queue : List Entry
  host : HostBus
  port : Port
  scan : Scan
  panel : Panel
  mover : Mover
  clock : Clock
  ctl : Controller
  pins : Pins
  free : Nat
  deriving DecidableEq, Repr

/-- Reasons for which the machine stops with a fault. -/
inductive Fault where
  /-- HOST_READ, HOST_WRITE or STATUS_WORD_WRITE presented while the part still holds the host's previous access for a tenure or
  a wait.  The host presents one access at a time (R24) and the manual gives a second one no effect.  Safe (log 8). -/
  | hostAccessOverlap
  deriving DecidableEq, Repr

/-- Reasons for which a command is refused. -/
inductive Refusal where
  /-- Raised by an arm of `exec` whose command has no meaning yet; no arm does.  Safe. -/
  | notModelled (mnemonic : String)
  deriving DecidableEq, Repr

namespace State

def withMem (s : State) (m : Memory) : State := { s with mem := m }
def withQueue (s : State) (q : List Entry) : State := { s with queue := q }
def withHost (s : State) (h : HostBus) : State := { s with host := h }
def withPort (s : State) (p : Port) : State := { s with port := p }
def withScan (s : State) (x : Scan) : State := { s with scan := x }
def withPanel (s : State) (p : Panel) : State := { s with panel := p }
def withMover (s : State) (m : Mover) : State := { s with mover := m }
def withClock (s : State) (c : Clock) : State := { s with clock := c }
def withCtl (s : State) (c : Controller) : State := { s with ctl := c }
def withPins (s : State) (p : Pins) : State := { s with pins := p }
def withFree (s : State) (n : Nat) : State := { s with free := n }
def withPending (s : State) (cs : List Instr) : State := { s with pending := cs }

end State

/-- An EMPTY line buffer as a reset leaves it (R90). -/
def LineBuffer.atReset : LineBuffer := ⟨0, .dark, [], .empty, false, false⟩

/-- The machine right after a power-on reset: R44, R75, R90, R97, R102, R118, R135, R149, R150, R168, R169.  Memory lists
nothing (log 2), the straps are those of log 3, and HD was never driven (log 5). -/
def State.reset : State where
  pending := []
  mem := []
  queue := []
  host := ⟨.none, false, 0⟩
  port := ⟨none, .hostNext⟩
  scan :=
    { state := .off, sub := .count, timer := 0, line := 0, gapCount := 0, ext := 0, frames := 0, base := 0
      stagedLo := 0, stagedHi := 0, stagedReady := false, walk := 0, bufA := .atReset, bufB := .atReset
      syncSeen := false, fetchDue := none }
  panel := ⟨0, false, false, 0, false, false⟩
  mover := ⟨false, .fill, .up, 0, 0, 0, 0, 0, false⟩
  clock := ⟨.rcb, .ready, none, ⟨.off, .rcf, 0⟩, none⟩
  ctl :=
    { istate := .passive, mode := ⟨.direct, false, .none⟩, setup := Config.setupDefaults, ptr := 0
      setupFault := none, args := #v[0, 0, 0, 0, 0, 0], lastCode := 0, lastResult := .none, count := 0, events := 0 }
  pins := ⟨false, Config.resetCps, Config.resetCks, Config.resetCps, Config.resetCks, false⟩
  free := 0

end Sys2Proof.Machine
end

