-- ==== Sys2Proof/Machine/Ops.lean ====
section
/-! DEFINITION. Machine/Ops.lean: the named operations over words, memory, the event word, the command record and the
setup record that every block uses. -/

namespace Sys2Proof.Machine

/-! ### Words and lanes (R170) -/

/-- The lane 0 byte of a word, bits 7–0. -/
def loByte (w : Word) : Byte := w.extractLsb' 0 8

/-- The lane 1 byte of a word, bits 15–8. -/
def hiByte (w : Word) : Byte := w.extractLsb' 8 8

/-- The word with these lane bytes. -/
def mkWord (lane0 lane1 : Byte) : Word := lane1 ++ lane0

/-- The lane 0 byte of a write, where the lane is enabled. -/
def laneByte0 (data : Word) (lanes : Lanes) : Option Byte := if lanes.lane0 then some (loByte data) else none

/-- The lane 1 byte of a write, where the lane is enabled. -/
def laneByte1 (data : Word) (lanes : Lanes) : Option Byte := if lanes.lane1 then some (hiByte data) else none

/-- A word with the enabled lanes replaced (R152, R154). -/
def mergeLanes (old data : Word) (lanes : Lanes) : Word :=
  mkWord (if lanes.lane0 then loByte data else loByte old) (if lanes.lane1 then hiByte data else hiByte old)

/-! ### Memory -/

/-- The byte at a byte address: what an unlisted address reads as is `Config.unwrittenByte` (log 2). -/
def Memory.readByte : Memory → Nat → Byte
  | [], _ => Config.unwrittenByte
  | (k, v) :: m, a => if a = k then v else Memory.readByte m a

/-- Memory with one byte written, in the canonical form. -/
def Memory.writeByte : Memory → Nat → Byte → Memory
  | [], a, v => if v = Config.unwrittenByte then [] else [(a, v)]
  | (k, x) :: m, a, v =>
    if a < k then (if v = Config.unwrittenByte then (k, x) :: m else (a, v) :: (k, x) :: m)
    else if a = k then (if v = Config.unwrittenByte then m else (a, v) :: m)
    else (k, x) :: Memory.writeByte m a v

/-- The canonical form from address `lo` on: addresses rise and are in memory, and no entry is the unlisted byte. -/
def Memory.wfFrom : Nat → Memory → Bool
  | _, [] => true
  | lo, (a, v) :: m =>
    decide (lo ≤ a) && decide (a < Config.memoryBytes) && !(v == Config.unwrittenByte) && Memory.wfFrom (a + 1) m

/-- The canonical form of memory. -/
def Memory.wf (m : Memory) : Bool := Memory.wfFrom 0 m

/-- The byte address of lane 0 of a word: the word address times 2 (R170). -/
def laneAddr (a : WordAddr) : Nat := 2 * a.toNat

/-- The word at a word address. -/
def Memory.readWord (m : Memory) (a : WordAddr) : Word :=
  mkWord (Memory.readByte m (laneAddr a)) (Memory.readByte m (laneAddr a + 1))

/-- Memory with one byte written, where there is one. -/
def Memory.writeOpt (m : Memory) (a : Nat) (b : Option Byte) : Memory :=
  match b with
  | none => m
  | some v => Memory.writeByte m a v

/-- Memory with the given lanes of a word written. -/
def Memory.writeLanes (m : Memory) (a : WordAddr) (lane0 lane1 : Option Byte) : Memory :=
  Memory.writeOpt (Memory.writeOpt m (laneAddr a) lane0) (laneAddr a + 1) lane1

/-! ### The event word (R165) -/

/-- The events, in the order of their bits (10.8).  `stateChange` is STATE. -/
inductive Event where
  | frame | mark | spill | blanked | moveDone | moveAbort | clkDone | clkAbort | clkFail | syncLost | stateChange
  | refused | visible
  deriving DecidableEq, Repr

/-- The bit of an event in the event word (10.8). -/
def Event.bit : Event → Fin 13
  | .frame => 0
  | .mark => 1
  | .spill => 2
  | .blanked => 3
  | .moveDone => 4
  | .moveAbort => 5
  | .clkDone => 6
  | .clkAbort => 7
  | .clkFail => 8
  | .syncLost => 9
  | .stateChange => 10
  | .refused => 11
  | .visible => 12

/-- Whether an event's bit is set. -/
def eventSet (events : BitVec 13) (e : Event) : Bool := events.getLsb e.bit

/-- The event word with one event raised: its bit is set, the others stay (R165). -/
def raiseBit (events : BitVec 13) (e : Event) : BitVec 13 := events ||| BitVec.twoPow 13 e.bit

/-- Raise an event. -/
def raise (e : Event) (s : State) : State := s.withCtl { s.ctl with events := raiseBit s.ctl.events e }

/-- Raise an event if a condition holds. -/
def raiseIf (c : Bool) (e : Event) (s : State) : State := if c then raise e s else s

/-! ### The command record (R155) -/

/-- The results that are no refusal (R155). -/
def Result.accepted (r : Result) : Bool := r == .done || r == .started

/-- Record a command write: the code, the result, the count, and REFUSED where the result is neither DONE nor STARTED
(R155, R166). -/
def recordCommand (code : Word) (r : Result) (s : State) : State :=
  raiseIf (!r.accepted) .refused
    (s.withCtl { s.ctl with lastCode := code, lastResult := r, count := s.ctl.count + 1 })

/-! ### The setup record (R158) -/

/-- A setup field as a number. -/
def field (setup : Vector Word 17) (i : Fin 17) : Nat := (setup.get i).toNat

/-- LINES (field 1). -/
def State.lines (s : State) : Nat := field s.ctl.setup 1
/-- LINE_WORDS (field 2). -/
def State.lineWords (s : State) : Nat := field s.ctl.setup 2
/-- LINE_PERIOD (field 3). -/
def State.linePeriod (s : State) : Nat := field s.ctl.setup 3
/-- GAP_LINES (field 4). -/
def State.gapLines (s : State) : Nat := field s.ctl.setup 4
/-- SYNC_LIMIT (field 5). -/
def State.syncLimit (s : State) : Nat := field s.ctl.setup 5

/-- EVENT_ENABLE (field 16). -/
def State.eventEnable (s : State) : Word := s.ctl.setup.get 16

/-- The static fields are all but TABLE_LO, TABLE_HI and EVENT_ENABLE (R158). -/
def staticField (i : Fin 17) : Bool := !(i == 6 || i == 7 || i == 16)

/-- The setup pointer after a full-word setup-port write: one more, and 16 stays (R159). -/
def nextPtr (i : Fin 17) : Fin 17 := if i.val < 16 then i + 1 else i

/-- The table base formed from TABLE_LO and TABLE_HI: TABLE_HI bits 4–0 are bits 20–16, TABLE_LO bits 15–2 are bits
15–2, bits 1–0 are 0 (R89). -/
def formBase (lo hi : Word) : ByteAddr := (hi.extractLsb' 0 5 ++ lo) &&& 0x1FFFFC

/-! ### States of the part -/

/-- The interposer state is DRAINING. -/
def IState.isDraining : IState → Bool
  | .draining _ _ => true
  | .passive | .starting | .running | .dormant => false

/-- DRAINING after the drain cut (R80, R87). -/
def IState.afterDrainCut : IState → Bool
  | .draining _ after => after
  | .passive | .starting | .running | .dormant => false

/-- The part shares the memory: RUNNING or DRAINING.  In every other state, and while RESET# is asserted (the state is
then PASSIVE), the pass-through path is open (R7, R8). -/
def sharing (s : State) : Bool := !s.pins.reset && (s.ctl.istate == .running || s.ctl.istate.isDraining)

/-- Static fields may be written, and table writes act on the base in force (R98, R158, R160). -/
def IState.quiet (i : IState) : Bool := i == .passive || i == .dormant

/-- A command or setup event that the Interposer Controller decodes: not while RESET# is asserted (R8, R151). -/
def decoded (f : State → State) (s : State) : State := if s.pins.reset then s else f s

end Sys2Proof.Machine
end

