-- ==== Sys2Proof/Machine/Operands.lean ====
section
/-! DEFINITION. Machine/Operands.lean: what an address is (Section 1), the words of the control page, and the
unfinished ranges of the Block Mover (R108), from which classes, mover-hit marks and blocking are derived. -/

namespace Sys2Proof.Machine

/-! ### Access classes (R3 to R5) -/

/-- The class of a host access. -/
inductive AccessClass where
  | control | display | plain
  deriving DecidableEq, Repr

/-- First byte of the control page (R3). -/
def controlBase (cps : BitVec 3) : Nat := Config.controlBase0 + cps.toNat * Config.controlBytes

/-- The byte offset of a word from the base of the control page, where the word lies in it (R3). -/
def controlOffset (cps : BitVec 3) (a : WordAddr) : Option Nat :=
  if controlBase cps ≤ laneAddr a ∧ laneAddr a < controlBase cps + Config.controlBytes then
    some (laneAddr a - controlBase cps)
  else none

/-- The word of the control page at an address (Section 9, 10.2). -/
def controlWord (cps : BitVec 3) (a : WordAddr) : Option ControlWord :=
  match controlOffset cps a with
  | none => none
  | some o =>
    if o = 0 then some .command
    else if o < 0x00E then some (.arg (Fin.ofNat 6 (o / 2 - 1)))
    else if o = 0x010 then some .setupPort
    else if 0x100 ≤ o ∧ o < 0x140 then some (.status (Fin.ofNat 32 (o / 2 - 0x80)))
    else some .other

/-- The word address of status word k (R55). -/
def statusWordAddr (cps : BitVec 3) (k : Fin 32) : WordAddr := BitVec.ofNat 20 (controlBase cps / 2 + 0x80 + k.val)

/-- The words a read of which is answered by intervention: the setup port and the status block (R55). -/
def intervened : ControlWord → Bool
  | .setupPort | .status _ => true
  | .command | .arg _ | .other => false

/-- The page of a word: its byte address divided by 256 (R4). -/
def pageOf (a : WordAddr) : Nat := laneAddr a / 256

/-- The setup fields of the four windows: first-page field and last-page field (R4). -/
def windowFields : List (Fin 17 × Fin 17) := [(8, 9), (10, 11), (12, 13), (14, 15)]

/-- First-page field bit 15: the window is enabled (10.5). -/
def windowEnabled (setup : Vector Word 17) (w : Fin 17 × Fin 17) : Bool := (setup.get w.1).getLsbD 15

/-- First page number: bits 12–0 of the first-page field (10.5). -/
def windowFirst (setup : Vector Word 17) (w : Fin 17 × Fin 17) : Nat := ((setup.get w.1).extractLsb' 0 13).toNat

/-- Last page number: bits 12–0 of the last-page field (10.5). -/
def windowLast (setup : Vector Word 17) (w : Fin 17 × Fin 17) : Nat := ((setup.get w.2).extractLsb' 0 13).toNat

/-- A page lies in an enabled window (R4). -/
def inWindow (setup : Vector Word 17) (page : Nat) (w : Fin 17 × Fin 17) : Bool :=
  windowEnabled setup w && decide (windowFirst setup w ≤ page) && decide (page ≤ windowLast setup w)

/-- The class of a word address: CONTROL, then DISPLAY, then PLAIN (R3, R4, R5). -/
def classify (s : State) (a : WordAddr) : AccessClass :=
  if (controlOffset s.pins.cps a).isSome then .control
  else if windowFields.any (inWindow s.ctl.setup (pageOf a)) then .display
  else .plain

/-- The block of a word: its byte address divided by 16 (R17). -/
def blockOf (a : WordAddr) : BlockNo := a.extractLsb' 3 17

/-- The word's number in its block, 0 to 7 (R17). -/
def wordInBlock (a : WordAddr) : Nat := a.toNat % 8

/-- The word address of word j of a block: block number × 8 + j (R39). -/
def blockWord (b : BlockNo) (j : Nat) : WordAddr := BitVec.ofNat 20 (b.toNat * 8 + j)

/-! ### Unfinished ranges (R108) -/

/-- A range of word addresses, from `lo` up to and not including `hi`. -/
structure WordRange where
  lo : Nat
  hi : Nat
  deriving DecidableEq, Repr

/-- The range that holds no word. -/
def WordRange.empty : WordRange := ⟨0, 0⟩

/-- A word lies in a range. -/
def WordRange.has (r : WordRange) (a : Nat) : Bool := decide (r.lo ≤ a) && decide (a < r.hi)

/-- At least one of the eight words of a block lies in a range (R6, R36, R107). -/
def WordRange.meets (r : WordRange) (b : BlockNo) : Bool :=
  decide (r.lo < r.hi) && decide (r.lo < b.toNat * 8 + 8) && decide (b.toNat * 8 < r.hi)

/-- The words of a range of a mover operation that starts at `first` and is not finished (R108). -/
def unfinished (m : Mover) (first : WordAddr) : WordRange :=
  match m.dir with
  | .up => ⟨first.toNat + m.done.toNat, first.toNat + m.length.toNat⟩
  | .down => ⟨first.toNat, first.toNat + m.length.toNat - m.done.toNat⟩

/-- The unfinished destination range (R108). -/
def destRange (m : Mover) : WordRange := if m.active then unfinished m m.dst else .empty

/-- The unfinished source range: a FILL has none (R108). -/
def srcRange (m : Mover) : WordRange := if m.active && m.kind == .copy then unfinished m m.src else .empty

/-- A block overlaps an unfinished range of the mover: a write to it is mover-hit (R6), an entry of it blocked (R36). -/
def moverMeets (m : Mover) (b : BlockNo) : Bool := (destRange m).meets b || (srcRange m).meets b

/-- Words of the operation still to write (R108). -/
def Mover.remaining (m : Mover) : Nat := m.length.toNat - m.done.toNat

end Sys2Proof.Machine
end

