-- ==== Sys2Proof/Machine/Flags.lean ====
section
/-! DEFINITION. Machine/Flags.lean: what software and the host see of the state: the queue's counts, the 32 status
words (10.6), HWAIT and IRQ#. -/

namespace Sys2Proof.Machine

/-! ### Codes (10.4 to 10.6) -/

/-- The result codes (R155). -/
def Result.code : Result → Word
  | .none => 0
  | .done => 1
  | .started => 2
  | .busy => 3
  | .badState => 4
  | .badMode => 5
  | .badArg => 6
  | .badSetup => 7
  | .conflict => 8
  | .badSwitch => 9
  | .malformed => 10
  | .unknown => 11

/-- The source codes (R120). -/
def ClockSource.code : ClockSource → Word
  | .rcb => 0
  | .rcf => 1
  | .rcs => 2
  | .ext => 4
  | .rcfM => 5
  | .extM => 6

/-- The source a code names, if it names one (R120). -/
def sourceOfCode (w : Word) : Option ClockSource :=
  [ClockSource.rcb, .rcf, .rcs, .ext, .rcfM, .extM].find? fun c => c.code == w

/-- The state codes of status word 0. -/
def IState.code : IState → Word
  | .passive => 0
  | .starting => 1
  | .running => 2
  | .draining .dormant _ => 0x0103
  | .draining .passive _ => 0x0203
  | .dormant => 4

/-- The mode codes of MODE and status word 1. -/
def Sharing.code : Sharing → Word
  | .direct => 1
  | .frame => 2
  | .commit => 3

/-- The role codes of MODE and status word 1, in bits 9–8. -/
def Role.code : Role → Word
  | .none => 0
  | .leader => 0x0100
  | .follower => 0x0200

/-- Status word 1 (10.6). -/
def Mode.word (m : Mode) : Word := m.sharing.code ||| (if m.preempt then 0x0010 else 0) ||| m.role.code

/-- The mode code of MODE, bits 1–0 (10.5). -/
def modeCode (w : Word) : Nat := (w.extractLsb' 0 2).toNat

/-- The role code of MODE, bits 9–8 (10.5). -/
def roleCode (w : Word) : Nat := (w.extractLsb' 8 2).toNat

/-- The mode in force that ENGAGE copies from MODE (R9, 10.5).  Mode code 0 and role code 3 fail ENGAGE (R139). -/
def modeOf (w : Word) : Mode where
  sharing := if modeCode w = 2 then .frame else if modeCode w = 3 then .commit else .direct
  preempt := w.getLsbD 4
  role := if roleCode w = 1 then .leader else if roleCode w = 2 then .follower else .none

/-- The condition codes of status word 20, in bits 9–8. -/
def Condition.code : Condition → Word
  | .ready => 0
  | .checking _ => 0x0100
  | .stopped => 0x0200

/-- The multiplier states of status word 23. -/
def MultState.code : MultState → Word
  | .off => 0
  | .locking => 1
  | .locked => 2

/-- The phase codes of status word 21, in bit 8. -/
def SwitchPhase.code : SwitchPhase → Word
  | .waitReady => 0
  | .ready => 0x0100

/-- Status word 17 (10.6). -/
def Mover.word (m : Mover) : Word :=
  (if m.active then 1 else 0) ||| (if m.kind = .copy then 0x0010 else 0) ||| (if m.dir = .down then 0x0100 else 0)

/-! ### Counts (R42) -/

/-- The number of entries of a generation. -/
def countGen (q : List Entry) (g : Generation) : Nat := (q.filter fun e => e.gen == g).length

/-! ### The status block (10.6, R58, R171) -/

/-- Status word k, live. -/
def statusWord (s : State) (k : Fin 32) : Word :=
  match k.val with
  | 0 => s.ctl.istate.code
  | 1 => s.ctl.mode.word
  | 2 => s.scan.frames
  | 3 => if s.scan.state = .showing then s.scan.line.setWidth 16 else 0xFFFF
  | 4 => s.scan.ext
  | 5 => BitVec.ofNat 16 s.queue.length
  | 6 => BitVec.ofNat 16 (countGen s.queue .direct)
  | 7 => BitVec.ofNat 16 (countGen s.queue .opn)
  | 8 => BitVec.ofNat 16 (countGen s.queue .pending)
  | 9 => BitVec.ofNat 16 (countGen s.queue .retiring)
  | 10 => s.ctl.events.setWidth 16
  | 11 => s.eventEnable
  | 12 => s.ctl.lastCode
  | 13 => s.ctl.lastResult.code
  | 14 => s.ctl.count
  | 15 => BitVec.ofNat 16 s.ctl.ptr.val
  | 16 => match s.ctl.setupFault with
    | none => 0xFFFF
    | some i => BitVec.ofNat 16 i.val
  | 17 => s.mover.word
  | 18 => s.mover.done
  | 19 => s.mover.length
  | 20 => s.clock.source.code ||| s.clock.cond.code
  | 21 => match s.clock.switch with
    | none => 0xFFFF
    | some p => p.target.code ||| p.phase.code
  | 22 => s.clock.mult.factor.setWidth 16
  | 23 => s.clock.mult.state.code
  | 24 => s.scan.base.extractLsb' 0 16
  | 25 => (s.scan.base.extractLsb' 16 5).setWidth 16
  | 26 => s.pins.cps.setWidth 16 ||| ((s.pins.cks.setWidth 16) <<< 4)
  | _ => 0

/-- The answer of an intervention: the setup field at the pointer (R57), or a status word (R58). -/
def interventionAnswer (s : State) : ControlWord → Word
  | .setupPort => s.ctl.setup.get s.ctl.ptr
  | .status k => statusWord s k
  | .command | .arg _ | .other => 0

/-! ### Output pins -/

/-- IRQ# is asserted exactly when some event bit is set whose EVENT_ENABLE bit is set (R167). -/
def irqAsserted (s : State) : Bool := !(s.ctl.events &&& s.eventEnable.extractLsb' 0 13 == 0)

/-- HWAIT is asserted while the part holds an access, but for one handed over at the first cut (R1, R2, R52, R56, R72). -/
def HostAccess.waits : HostAccess → Bool
  | .none | .handedOver => false
  | .readHold _ | .interventionHold _ | .writeHold _ | .readClaim _ _ | .writeClaim _ | .writeWait _ _ _ | .inTenure => true

/-- HWAIT. -/
def hwait (s : State) : Bool := s.host.access.waits

end Sys2Proof.Machine
end

