-- ==== Sys2Proof/WellFormed.lean ====
section
/-! DEFINITION. WellFormed.lean: the commands, the codes that name them in the COMMAND word, and the check that a
command's operands are ones its row can have. -/

namespace Sys2Proof

/-- The commands that a full-word write to COMMAND can name (R153). -/
inductive Command where
  | engage | disengage | quiesce | resume | commit | fill | copy | movestop | clksel | ack | setptr
  deriving DecidableEq, Repr

/-- The command codes (R153, 10.4). -/
def Command.code : Command → Word
  | .engage => 0x5301
  | .disengage => 0x5302
  | .quiesce => 0x5303
  | .resume => 0x5304
  | .commit => 0x5310
  | .fill => 0x5320
  | .copy => 0x5321
  | .movestop => 0x5322
  | .clksel => 0x5330
  | .ack => 0x5340
  | .setptr => 0x5341

/-- Every command, in the order of R153. -/
def Command.all : List Command :=
  [.engage, .disengage, .quiesce, .resume, .commit, .fill, .copy, .movestop, .clksel, .ack, .setptr]

/-- The command a COMMAND word names, if it names one (R153). -/
def commandOfCode (w : Word) : Option Command := Command.all.find? fun c => c.code == w

/-- A line fetch, the longest tenure, has 514 port cycles (R62): a tenure in progress has completed fewer. -/
def cycleInRange (c : BitVec 10) : Bool := decide (c.toNat < 514)

/-- The operands of a command are ones its row can have: an UNKNOWN_COMMAND names no code (R153), a
MALFORMED_COMMAND is not a full word (R154), a line timer position is below the largest LINE_PERIOD (R95, R139), a
tenure in progress has completed fewer than 514 port cycles (R62), and a write in progress at the first cut has an
address like any other (R72). -/
def Instr.wellFormed : Instr → Bool
  | .unknownCommand code => (commandOfCode code).isNone
  | .malformedCommand _ lanes => !lanes.full
  | .panelPortLineSequence clock _ => decide (clock.toNat < 4095)
  | .hostRead _ _ cycle => cycleInRange cycle
  | .resetAsserted cycle _ => cycleInRange cycle
  | .hostWrite _ _ _ | .heldWriteDecidedAfresh | .hostReadTenureEnd _ | .hostDirectWriteTenureEnd _
  | .retireTenureEnd | .lineFetchEnd | .moverStepEnd | .linePeriodBoundary _ | .frameSyncArrival | .firstCut _
  | .engage | .disengage | .quiesce | .resume | .commit | .fill | .copy | .movestop | .clksel | .ack | .setptr
  | .argumentWrite _ _ _ | .setupPortWrite _ _ | .statusWordWrite _ _ _ | .wakeArrival | .lossOfXclk
  | .xclkContinuityReady | .multiplierLocked | .readinessTimeout | .resetReleased | .powerOnReset _ _
  | .minimumHoldElapsed | .preemptedFetchCycleEnd | .strapSampling _ _ => true

end Sys2Proof
end

