-- ==== Sys2Proof/Machine/Queue.lean ====
section
/-! DEFINITION. Machine/Queue.lean: the Posted Write Queue (Section 2): entries, merging, folds, the shifts at COMMIT,
at a spill and at a cut, and the search of the Read Resolver for a queued byte (R46). -/

namespace Sys2Proof.Machine

/-! ### Entries -/

/-- The sixteen byte positions a write fills: lane 0 of word j is position 2j, lane 1 position 2j + 1 (R21). -/
def writeBytes (w : HostWrite) : List (Option Byte) :=
  (List.range 16).map fun k =>
    if k = 2 * wordInBlock w.addr then laneByte0 w.data w.lanes
    else if k = 2 * wordInBlock w.addr + 1 then laneByte1 w.data w.lanes
    else none

/-- Byte positions with newer bytes laid over older ones: a newer byte where there is one, else the older (R22, R31). -/
def overlay (newer older : List (Option Byte)) : List (Option Byte) := List.zipWith (fun n o => n.or o) newer older

/-- The entry a write creates (R17, R21). -/
def newEntry (w : HostWrite) (g : Generation) : Entry := ⟨blockOf w.addr, writeBytes w, g, .held⟩

/-- An entry is of this block and this generation. -/
def Entry.isOf (b : BlockNo) (g : Generation) (e : Entry) : Bool := e.block == b && e.gen == g

/-- The entry of a block and generation; there is at most one (R20). -/
def findEntry (q : List Entry) (b : BlockNo) (g : Generation) : Option Entry := q.find? (Entry.isOf b g)

/-- The queue holds an entry of the block, of any generation. -/
def queueHasBlock (q : List Entry) (b : BlockNo) : Bool := q.any fun e => e.block == b

/-- The queue holds an entry of a generation. -/
def hasGen (q : List Entry) (g : Generation) : Bool := q.any fun e => e.gen == g

/-- The queue is full (R19). -/
def queueFull (q : List Entry) : Bool := decide (Config.queueDepth ≤ q.length)

/-! ### Merging and posting (R21, R22) -/

/-- Merge a write into the entry of its block and generation: it keeps its place, generation and state (R22). -/
def mergeWrite (q : List Entry) (w : HostWrite) (g : Generation) : List Entry :=
  q.map fun e => if e.isOf (blockOf w.addr) g then { e with bytes := overlay (writeBytes w) e.bytes } else e

/-- Post a write as a new entry at the young end (R18, R21). -/
def postWrite (q : List Entry) (w : HostWrite) (g : Generation) : List Entry := q ++ [newEntry w g]

/-! ### COMMIT, spill and the shifts at a cut (R31, R34, R35) -/

/-- The entry is OPEN and its block has a PENDING entry: it is folded (R31). -/
def folds (q : List Entry) (e : Entry) : Bool := e.gen == .opn && (findEntry q e.block .pending).isSome

/-- A PENDING entry with the bytes of its block's OPEN entry folded in (R31 step 1). -/
def foldInto (q : List Entry) (e : Entry) : Entry :=
  match findEntry q e.block .opn with
  | some o => if e.gen = .pending then { e with bytes := overlay o.bytes e.bytes } else e
  | none => e

/-- Fold every OPEN entry whose block has a PENDING entry into it (R31 step 1). -/
def foldOpen (q : List Entry) : List Entry := (q.filter fun e => !folds q e).map (foldInto q)

/-- Relabel every entry of one generation, in place (R18, R31 step 2, R34). -/
def relabel (fromGen toGen : Generation) (q : List Entry) : List Entry :=
  q.map fun e => if e.gen = fromGen then { e with gen := toGen } else e

/-- The effect of COMMIT, and of a spill, on the queue (R31, R28). -/
def commitQueue (q : List Entry) : List Entry := relabel .opn .pending (foldOpen q)

/-- The shift at an ordinary cut for the sharing mode in force (R34). -/
def cutShift (m : Sharing) (q : List Entry) : List Entry :=
  match m with
  | .direct => q
  | .frame => relabel .opn .retiring q
  | .commit => relabel .pending .retiring q

/-- The drain shift: OPEN entries are folded into PENDING partners, and the OPEN and PENDING entries that remain become
RETIRING (R35). -/
def drainShift (q : List Entry) : List Entry := relabel .pending .retiring (relabel .opn .retiring (foldOpen q))

/-! ### Retirement (R36 to R39) -/

/-- An entry is blocked while its block overlaps an unfinished range of the mover (R36). -/
def blocked (m : Mover) (e : Entry) : Bool := moverMeets m e.block

/-- An entry is eligible to retire while it is DIRECT or RETIRING, HELD and not blocked (R37). -/
def eligible (m : Mover) (e : Entry) : Bool :=
  (e.gen == .direct || e.gen == .retiring) && e.state == .held && !blocked m e

/-- An entry is WRITING. -/
def Entry.isWriting (e : Entry) : Bool := e.state == .writing

/-- The WRITING entry (R38). -/
def writingEntry (q : List Entry) : Option Entry := q.find? Entry.isWriting

/-- The queue claims the port while it holds an eligible entry and none is WRITING (R37). -/
def queueClaims (m : Mover) (q : List Entry) : Bool := q.any (eligible m) && !q.any Entry.isWriting

/-- At a grant the oldest eligible entry becomes WRITING (R37, R38). -/
def startRetire (m : Mover) : List Entry → List Entry
  | [] => []
  | e :: q => if eligible m e then { e with state := .writing } :: q else e :: startRetire m q

/-- At the end of its tenure the WRITING entry leaves and the list closes up (R40). -/
def removeWriting (q : List Entry) : List Entry := q.filter fun e => !e.isWriting

/-! ### Forwarding (R46) -/

/-- The byte an entry holds at a position of its block, if it marks it. -/
def Entry.byteAt (e : Entry) (position : Nat) : Option Byte := (e.bytes[position]?).getD none

/-- The byte of the youngest entry of the block that marks the position, in any generation and state (R46). -/
def queueByte (q : List Entry) (b : BlockNo) (position : Nat) : Option Byte :=
  q.reverse.findSome? fun e => if e.block = b then e.byteAt position else none

end Sys2Proof.Machine
end

