-- ==== Sys2Proof/Machine/Resolver.lean ====
section
/-! DEFINITION. Machine/Resolver.lean: the Read Resolver (Section 3): where each byte of a read comes from, whether the
read needs the memory, and its answer. -/

namespace Sys2Proof.Machine

/-- The source of one byte lane of a read, in the order of R45. -/
inductive LaneSource where
  | queue (b : Byte)
  | fillPattern (b : Byte)
  | copySource
  | memory
  deriving DecidableEq, Repr

/-- The source word of a destination word of a COPY: S + (D − T) (R48). -/
def copySourceWord (m : Mover) (a : WordAddr) : WordAddr := m.src + (a - m.dst)

/-- The word lies in the unfinished destination range of an ACTIVE operation of this kind (R45). -/
def inDest (m : Mover) (kind : MoverKind) (a : WordAddr) : Bool := m.kind == kind && (destRange m).has a.toNat

/-- The source of a lane (`odd` for lane 1) of a word (R45 to R48). -/
def laneSource (s : State) (a : WordAddr) (odd : Bool) : LaneSource :=
  match queueByte s.queue (blockOf a) (2 * wordInBlock a + (if odd then 1 else 0)) with
  | some b => .queue b
  | none =>
    if inDest s.mover .fill a then .fillPattern (if odd then hiByte s.mover.pattern else loByte s.mover.pattern)
    else if inDest s.mover .copy a then .copySource
    else .memory

/-- A lane's byte, where its source is the queue or the fill pattern. -/
def LaneSource.supplied : LaneSource → Option Byte
  | .queue b | .fillPattern b => some b
  | .copySource | .memory => none

/-- A read needs a memory tenure when an enabled lane has the source memory or copy source (R50). -/
def needsTenure (s : State) (a : WordAddr) (lanes : Lanes) : Bool :=
  (lanes.lane0 && (laneSource s a false).supplied.isNone) || (lanes.lane1 && (laneSource s a true).supplied.isNone)

/-- The word a host read tenure reads: the corresponding source word in the unfinished destination of an ACTIVE COPY,
else the read's own word (R50). -/
def chosenWord (s : State) (a : WordAddr) : WordAddr :=
  if inDest s.mover .copy a then copySourceWord s.mover a else a

/-- The answer of a read without a tenure: supplied bytes, and H'00 in a lane that would need the memory (R49). -/
def suppliedAnswer (s : State) (a : WordAddr) : Word :=
  mkWord ((laneSource s a false).supplied.getD 0) ((laneSource s a true).supplied.getD 0)

/-- The answer at the end of a host read tenure: each lane takes its supplied byte where it has one, else the memory
byte of the same lane (R50). -/
def tenureAnswer (mem : Memory) (chosen : WordAddr) (lane0 lane1 : Option Byte) : Word :=
  mkWord (lane0.getD (loByte (Memory.readWord mem chosen))) (lane1.getD (hiByte (Memory.readWord mem chosen)))

/-- The tenure granted to a host read: the sources are decided again at the grant (R51). -/
def readTenure (s : State) (a : WordAddr) : Tenure :=
  .hostRead a (chosenWord s a) (laneSource s a false).supplied (laneSource s a true).supplied

end Sys2Proof.Machine
end

