-- ==== Sys2Proof/Machine/Port.lean ====
section
/-! DEFINITION. Machine/Port.lean: the Memory Port Arbiter (Section 4): the memory accesses of each kind of tenure, one a
port cycle, the claims, and the grants. -/

namespace Sys2Proof.Machine

/-! ### The accesses of a tenure (R60, R62) -/

/-- One port cycle: a read of a word with both byte enables, or a write of the lanes given (R60, R62). -/
inductive PortOp where
  | read (a : WordAddr)
  | write (a : WordAddr) (lane0 lane1 : Option Byte)
  deriving DecidableEq, Repr

/-- The effect of a port cycle on memory. -/
def PortOp.apply (m : Memory) : PortOp → Memory
  | .read _ => m
  | .write a l0 l1 => Memory.writeLanes m a l0 l1

/-- The effect of port cycles in their order. -/
def applyOps (m : Memory) (ops : List PortOp) : Memory := ops.foldl PortOp.apply m

/-- A write of a whole word. -/
def writeWordOp (a : WordAddr) (w : Word) : PortOp := .write a (some (loByte w)) (some (hiByte w))

/-- The port cycle of a host write: its enabled lanes (R62). -/
def hostWriteOp (w : HostWrite) : PortOp := .write w.addr (laneByte0 w.data w.lanes) (laneByte1 w.data w.lanes)

/-- The port cycle of word j of an entry, if the word holds a valid byte (R39). -/
def retireWordOp (e : Entry) (j : Nat) : Option PortOp :=
  if (e.byteAt (2 * j)).isSome || (e.byteAt (2 * j + 1)).isSome then
    some (.write (blockWord e.block j) (e.byteAt (2 * j)) (e.byteAt (2 * j + 1)))
  else none

/-- The port cycles of a retire tenure: every word with a valid byte, in ascending order (R39). -/
def retireOps (e : Entry) : List PortOp := (List.range 8).filterMap (retireWordOp e)

/-- The word address of a byte address. -/
def wordOfByte (b : ByteAddr) : WordAddr := b.extractLsb' 1 20

/-- Word 0 of the row table entry at the walk pointer (R87 to R89). -/
def entryWord0 (s : State) : Word := Memory.readWord s.mem (wordOfByte s.scan.walk)

/-- Word 1 of the row table entry at the walk pointer. -/
def entryWord1 (s : State) : Word := Memory.readWord s.mem (wordOfByte (s.scan.walk + 2))

/-- The kind of a row table entry, from BLANK (bit 15) and REPEAT (bit 14) of its word 1 (R88). -/
def entryKind (w1 : Word) : LineKind :=
  if w1.getLsbD 15 then .dark else if w1.getLsbD 14 then .repeated else .data

/-- MARK, bit 13 of word 1 (R88). -/
def entryMark (w1 : Word) : Bool := w1.getLsbD 13

/-- The start word address: word 0, with word 1 bits 3–0 as bits 19–16 (R88). -/
def entryStart (w0 w1 : Word) : WordAddr := w1.extractLsb' 0 4 ++ w0

/-- The addresses of the data words of a data line, ascending, H'00000 after H'FFFFF (R88). -/
def lineAddrs (s : State) : List WordAddr :=
  (List.range s.lineWords).map fun i => entryStart (entryWord0 s) (entryWord1 s) + BitVec.ofNat 20 i

/-- The data words a line fetch reads: LINE_WORDS words for a data line, none otherwise (R88, R91). -/
def fetchedWords (s : State) : List Word :=
  match entryKind (entryWord1 s) with
  | .data => (lineAddrs s).map (Memory.readWord s.mem)
  | .dark | .repeated => []

/-- The port cycles of a line fetch: the two entry words, then for a data line its words (R62). -/
def lineFetchOps (s : State) : List PortOp :=
  [.read (wordOfByte s.scan.walk), .read (wordOfByte (s.scan.walk + 2))] ++
    match entryKind (entryWord1 s) with
    | .data => (lineAddrs s).map PortOp.read
    | .dark | .repeated => []

/-- The words of a mover step on a range that starts at `first`, in the order the step takes them: UP the k lowest
unfinished words ascending, DOWN the k highest descending (R109, R110). -/
def stepAddrs (m : Mover) (first : WordAddr) (k : Nat) : List WordAddr :=
  (List.range k).map fun i =>
    match m.dir with
    | .up => BitVec.ofNat 20 (first.toNat + m.done.toNat + i)
    | .down => BitVec.ofNat 20 (first.toNat + m.length.toNat - 1 - m.done.toNat - i)

/-- The port cycles of a FILL step (R109). -/
def fillOps (s : State) (k : Nat) : List PortOp :=
  (stepAddrs s.mover s.mover.dst k).map fun a => writeWordOp a s.mover.pattern

/-- The port cycles of a COPY step: k reads, then k writes of the words read (R110). -/
def copyOps (s : State) (k : Nat) : List PortOp :=
  (stepAddrs s.mover s.mover.src k).map PortOp.read ++
    List.zipWith (fun d a => writeWordOp d (Memory.readWord s.mem a))
      (stepAddrs s.mover s.mover.dst k) (stepAddrs s.mover s.mover.src k)

/-- The port cycles of a tenure, in order: its length is their number (R62).  They are computed from the state at the
tenure's end: nothing else reaches memory, the entry or the mover record while it holds the port (R67, log 10). -/
def tenureOps (s : State) : Tenure → List PortOp
  | .hostRead _ chosen _ _ => [.read chosen]
  | .hostWrite w => [hostWriteOp w]
  | .retire => match writingEntry s.queue with
    | some e => retireOps e
    | none => []
  | .lineFetch _ _ => lineFetchOps s
  | .fillStep k => fillOps s k
  | .copyStep k => copyOps s k

/-- Memory after every port cycle of a tenure. -/
def memAfter (s : State) (t : Tenure) : Memory := applyOps s.mem (tenureOps s t)

/-! ### Claims (R61) -/

/-- The host claims the port: a read that needs a tenure, or a write whose treatment is a direct tenure. -/
def HostAccess.claims : HostAccess → Bool
  | .readClaim _ _ | .writeClaim _ => true
  | .none | .readHold _ | .interventionHold _ | .writeHold _ | .writeWait _ _ _ | .inTenure | .handedOver => false

/-- The tenure is a step of the mover. -/
def Tenure.isMoverStep : Tenure → Bool
  | .fillStep _ | .copyStep _ => true
  | .hostRead _ _ _ _ | .hostWrite _ | .retire | .lineFetch _ _ => false

/-- The tenure is a line fetch. -/
def Tenure.isLineFetch : Tenure → Bool
  | .lineFetch _ _ => true
  | .hostRead _ _ _ _ | .hostWrite _ | .retire | .fillStep _ | .copyStep _ => false

/-- A step of the mover is in progress. -/
def stepInProgress (s : State) : Bool := s.port.tenure.any Tenure.isMoverStep

/-- The mover claims the port while it is ACTIVE with words left to write and no step in progress (R61, R108). -/
def moverClaims (s : State) : Bool := s.mover.active && decide (0 < s.mover.remaining) && !stepInProgress s

/-- Some claimant is waiting. -/
def claimWaiting (s : State) : Bool :=
  s.scan.fetchDue.isSome || s.host.access.claims || queueClaims s.mover s.queue || moverClaims s

/-- The port is free: no tenure is in progress and no claimant is waiting (R11, R60). -/
def portFree (s : State) : Bool := s.port.tenure.isNone && !claimWaiting s

/-! ### Grants (R63 to R66) -/

/-- The tenure of a mover step: k is 8 for a FILL, 4 for a COPY, or the words remaining if fewer (R109, R110). -/
def stepTenure (m : Mover) : Tenure :=
  match m.kind with
  | .fill => .fillStep (min 8 m.remaining)
  | .copy => .copyStep (min 4 m.remaining)

/-- Line n is fetched into buffer A when n is even and into B when n is odd (R90). -/
def bufferOf (x : Scan) (line : BitVec 8) : LineBuffer := if line.getLsbD 0 then x.bufB else x.bufA

/-- The scan state with the buffer of a line replaced. -/
def setBuffer (x : Scan) (line : BitVec 8) (b : LineBuffer) : Scan :=
  if line.getLsbD 0 then { x with bufB := b } else { x with bufA := b }

/-- Grant the due fetch: the target buffer takes the line index, Aborted no and MARK absent, and becomes FILLING (R91). -/
def grantFetch (line : BitVec 8) (s : State) : State :=
  (s.withPort { s.port with tenure := some (.lineFetch line none) }).withScan
    (setBuffer { s.scan with fetchDue := none } line
      { bufferOf s.scan line with line := line, state := .filling, mark := false, aborted := false })

/-- Grant the host's claim; the toggle becomes QUEUE_NEXT (R65). -/
def grantHost (s : State) : State :=
  match s.host.access with
  | .readClaim a _ =>
    (s.withPort ⟨some (readTenure s a), .queueNext⟩).withHost { s.host with access := .inTenure }
  | .writeClaim w =>
    (s.withPort ⟨some (.hostWrite w), .queueNext⟩).withHost { s.host with access := .inTenure }
  | .none | .readHold _ | .interventionHold _ | .writeHold _ | .writeWait _ _ _ | .inTenure | .handedOver => s

/-- Grant a retire tenure to the oldest eligible entry; the toggle becomes HOST_NEXT (R37, R65). -/
def grantRetire (s : State) : State :=
  (s.withPort ⟨some .retire, .hostNext⟩).withQueue (startRetire s.mover s.queue)

/-- Grant a mover step; the toggle stays (R65, R66). -/
def grantStep (s : State) : State := s.withPort { s.port with tenure := some (stepTenure s.mover) }

/-- Grant the port to the host or the queue, or else to the mover (R64 steps 2 and 3). -/
def grantOther (s : State) : State :=
  if s.host.access.claims && (s.port.toggle == .hostNext || !queueClaims s.mover s.queue) then grantHost s
  else if queueClaims s.mover s.queue then grantRetire s
  else if moverClaims s then grantStep s
  else s

/-- The arbiter: in RUNNING and DRAINING, an idle port is granted to a waiting claimant in the order of R64.  A claim made
at an idle port is granted at once (R63). -/
def settle (s : State) : State :=
  if !sharing s || s.port.tenure.isSome then s
  else match s.scan.fetchDue with
    | some line => grantFetch line s
    | none => grantOther s

/-- The current tenure ends: the port falls free. -/
def endTenure (s : State) : State := s.withPort { s.port with tenure := none }

end Sys2Proof.Machine
end

