-- ==== Sys2Proof/Machine/Pins.lean ====
section
/-! DEFINITION. Machine/Pins.lean: the memory-side pins, as the arbiter drives them in RUNNING and DRAINING (R60, R62) and as the pass-through path
drives them otherwise (R7, R55, R74).  They are a view of the state, of the port cycle and of the host-side pins, and hold no state (log 21). -/

namespace Sys2Proof.Machine

/-! ### The pins -/

/-- MD15–MD0: whether the part drives them, and the byte it drives on each lane where a rule states one (R39, R60). -/
structure MemData where
  driven : Bool
  lane0 : Option Byte
  lane1 : Option Byte
  deriving DecidableEq, Repr

/-- The part does not drive MD15–MD0 (R60). -/
def MemData.undriven : MemData := ⟨false, none, none⟩

/-- A whole word is driven (R170). -/
def MemData.word (w : Word) : MemData := ⟨true, some (loByte w), some (hiByte w)⟩

/-- The memory-side pins: MA19–MA0 where a rule states a level, which of MCS#, MRD#, MWR# and the byte enables are asserted, and the data lines. -/
structure MemPins where
  ma : Option WordAddr
  mcs : Bool
  mrd : Bool
  mwr : Bool
  mbe : Lanes
  md : MemData
  deriving DecidableEq, Repr

/-- The host-side pins that the pass-through path follows: HA19–HA0, which of HCS#, HRD#, HWR# and HBE1#–HBE0# are asserted, and the word the host
drives on HD15–HD0 in a write. -/
structure HostPins where
  ha : WordAddr
  hcs : Bool
  hrd : Bool
  hwr : Bool
  hbe : Lanes
  hd : Word
  deriving DecidableEq, Repr

/-! ### RUNNING and DRAINING (R60, R62) -/

/-- The pins of one port cycle: a read samples MD15–MD0, a write drives its bytes on their lanes (R39, R60, R170). -/
def PortOp.pins : PortOp → MemPins
  | .read a => ⟨some a, true, true, false, ⟨true, true⟩, .undriven⟩
  | .write a l0 l1 => ⟨some a, true, false, true, ⟨l0.isSome, l1.isSome⟩, ⟨true, l0, l1⟩⟩

/-- The pins of the port cycles of a tenure, in order.  A host direct write drives the host's whole word, its byte enables those of the host (R60,
R62). -/
def tenurePins (s : State) : Tenure → List MemPins
  | .hostWrite w => [{ (hostWriteOp w).pins with md := .word w.data }]
  | .hostRead a c l0 l1 => (tenureOps s (.hostRead a c l0 l1)).map PortOp.pins
  | .retire => (tenureOps s .retire).map PortOp.pins
  | .lineFetch line p => (tenureOps s (.lineFetch line p)).map PortOp.pins
  | .fillStep k => (tenureOps s (.fillStep k)).map PortOp.pins
  | .copyStep k => (tenureOps s (.copyStep k)).map PortOp.pins

/-- The pins while the port is idle in RUNNING or DRAINING: strobes and byte enables deasserted, MD15–MD0 not driven; the manual states no level of
MA19–MA0 (R60). -/
def idlePins : MemPins := ⟨none, false, false, false, ⟨false, false⟩, .undriven⟩

/-- The pins in RUNNING and DRAINING, in port cycle `n` (from 0) of the current tenure; none where the tenure has no such cycle. -/
def portPins (s : State) (n : Nat) : Option MemPins :=
  match s.port.tenure with
  | none => some idlePins
  | some t => (tenurePins s t)[n]?

/-! ### Pass-through (R7, R55, R74) -/

/-- The part is answering a read by intervention. -/
def HostAccess.isIntervention : HostAccess → Bool
  | .interventionHold _ => true
  | .none | .readHold _ | .writeHold _ | .readClaim _ _ | .writeClaim _ | .writeWait _ _ _ | .inTenure | .handedOver => false

/-- The host-side pins present a read that the part answers by intervention: of the setup port or a status word (R55), or the one it holds, whose
word was fixed at its take (R1). -/
def interceptsRead (s : State) (h : HostPins) : Bool :=
  h.hcs && h.hrd && ((controlWord s.pins.cps h.ha).any intervened || s.host.access.isIntervention)

/-- The pins in pass-through: they follow the host's, MD15–MD0 are joined to HD15–HD0 in the direction of the access, and MCS# and MRD# are held
deasserted for a read answered by intervention (R7, R55). -/
def passPins (s : State) (h : HostPins) : MemPins where
  ma := some h.ha
  mcs := h.hcs && !interceptsRead s h
  mrd := h.hrd && !interceptsRead s h
  mwr := h.hwr
  mbe := h.hbe
  md := if h.hcs && h.hwr then .word h.hd else .undriven

/-- The memory-side pins in any state (R7, R8, R60, R74). -/
def memPins (s : State) (h : HostPins) (n : Nat) : Option MemPins := if sharing s then portPins s n else some (passPins s h)

end Sys2Proof.Machine
end

