-- ==== Sys2Proof/Machine/Mover.lean ====
section
/-! DEFINITION. Machine/Mover.lean: the Block Mover (Section 6): the checks and start of FILL and COPY, the end of a step,
completion and MOVESTOP; and the ends of a held write's wait (R24), which steps and shifts bring about. -/

namespace Sys2Proof.Machine

/-! ### The ends of a held write's wait (R15, R23, R24) -/

/-- A block is clear: no entry of it in the queue and no unfinished range over it (R15). -/
def blockClear (s : State) (b : BlockNo) : Bool := !queueHasBlock s.queue b && !moverMeets s.mover b

/-- Whether a wait ends now, given that an entry left the queue and that a retire tenure ended. -/
def waitEnds (s : State) (w : HostWrite) (left retired : Bool) : WaitFor → Bool
  | .entryLeaves => left
  | .writingEnds => retired
  | .blockClears => blockClear s (blockOf w.addr)

/-- Mark the held write as due to be decided afresh where its wait ends now (R24, R15, R111). -/
def noteWait (left retired : Bool) (s : State) : State :=
  match s.host.access with
  | .writeWait w why due =>
    s.withHost { s.host with access := .writeWait w why (due || waitEnds s w left retired why) }
  | .none | .readHold _ | .interventionHold _ | .writeHold _ | .readClaim _ _ | .writeClaim _ | .inTenure | .handedOver => s

/-! ### Starting an operation (R104 to R107) -/

/-- A word address from two argument latches: bits 15–0, and bits 19–16 (10.3). -/
def argAddr (lo hi : Word) : WordAddr := hi.extractLsb' 0 4 ++ lo

/-- A range of words that lies within memory and outside the control page (R106). -/
def rangeAllowed (cps : BitVec 3) (first : WordAddr) (length : Word) : Bool :=
  decide (first.toNat + length.toNat ≤ Config.memoryWords) &&
    !(decide (first.toNat < controlBase cps / 2 + Config.controlBytes / 2) &&
      decide (controlBase cps / 2 < first.toNat + length.toNat))

/-- Some entry's block overlaps a range of words (R107). -/
def conflicts (q : List Entry) (r : WordRange) : Bool := q.any fun e => r.meets e.block

/-- The words of an operation. -/
def wordsFrom (first : WordAddr) (length : Word) : WordRange := ⟨first.toNat, first.toNat + length.toNat⟩

/-- Two ranges of the same length overlap (R105). -/
def rangesOverlap (a b : WordRange) : Bool := decide (a.lo < b.hi) && decide (b.lo < a.hi)

/-- The direction of a COPY: DOWN when the destination is greater than the source and the ranges overlap (R105). -/
def copyDir (src dst : WordAddr) (length : Word) : MoverDir :=
  if src.toNat < dst.toNat ∧ rangesOverlap (wordsFrom src length) (wordsFrom dst length) then .down else .up

/-- The result of a FILL's checks in the order of R106, or none where it is accepted. -/
def fillRefusal (s : State) : Option Result :=
  let dst := argAddr (s.ctl.args.get 0) (s.ctl.args.get 1)
  let length := s.ctl.args.get 2
  if s.ctl.istate ≠ .running then some .badState
  else if s.mover.active then some .busy
  else if 15 < (s.ctl.args.get 1).toNat ∨ length = 0 ∨ !rangeAllowed s.pins.cps dst length then some .badArg
  else if conflicts s.queue (wordsFrom dst length) then some .conflict
  else none

/-- The mover record of an accepted FILL (R104). -/
def fillRecord (s : State) : Mover where
  active := true
  kind := .fill
  dir := .up
  src := 0
  dst := argAddr (s.ctl.args.get 0) (s.ctl.args.get 1)
  length := s.ctl.args.get 2
  done := 0
  pattern := s.ctl.args.get 3
  stopReq := false

/-- The FILL command at its take (R104, R106). -/
def fill (s : State) : State :=
  match fillRefusal s with
  | some r => recordCommand (Command.code .fill) r s
  | none => recordCommand (Command.code .fill) .started (s.withMover (fillRecord s))

/-- The result of a COPY's checks in the order of R106, or none where it is accepted. -/
def copyRefusal (s : State) : Option Result :=
  let src := argAddr (s.ctl.args.get 0) (s.ctl.args.get 1)
  let dst := argAddr (s.ctl.args.get 2) (s.ctl.args.get 3)
  let length := s.ctl.args.get 4
  if s.ctl.istate ≠ .running then some .badState
  else if s.mover.active then some .busy
  else if 15 < (s.ctl.args.get 1).toNat ∨ 15 < (s.ctl.args.get 3).toNat ∨ length = 0 ∨
      !rangeAllowed s.pins.cps dst length ∨ !rangeAllowed s.pins.cps src length then some .badArg
  else if conflicts s.queue (wordsFrom dst length) || conflicts s.queue (wordsFrom src length) then some .conflict
  else none

/-- The mover record of an accepted COPY (R105). -/
def copyRecord (s : State) : Mover :=
  let src := argAddr (s.ctl.args.get 0) (s.ctl.args.get 1)
  let dst := argAddr (s.ctl.args.get 2) (s.ctl.args.get 3)
  { active := true, kind := .copy, dir := copyDir src dst (s.ctl.args.get 4), src := src, dst := dst
    length := s.ctl.args.get 4, done := 0, pattern := 0, stopReq := false }

/-- The COPY command at its take (R105, R106). -/
def copy (s : State) : State :=
  match copyRefusal s with
  | some r => recordCommand (Command.code .copy) r s
  | none => recordCommand (Command.code .copy) .started (s.withMover (copyRecord s))

/-! ### The end of a step, completion and MOVESTOP (R111 to R117) -/

/-- The mover becomes IDLE: its ranges vanish, the stop request clears, and every other field keeps its value
(R103, R114, R115). -/
def Mover.idle (m : Mover) : Mover := { m with active := false, stopReq := false }

/-- The operation ends with this event; a held write may be due (R114, R115). -/
def moverEnds (e : Event) (s : State) : State := noteWait false false (raise e (s.withMover s.mover.idle))

/-- The end of a step of k words whose accesses memory has taken: words done grows, and the operation completes, stops on
a stop request, or goes on (R111, R114, R115). -/
def stepEnded (k : Nat) (s : State) : State :=
  let m := { s.mover with done := s.mover.done + BitVec.ofNat 16 k }
  let s := s.withMover m
  if m.length.toNat ≤ m.done.toNat then moverEnds .moveDone s
  else if m.stopReq then moverEnds .moveAbort s
  else noteWait false false s

/-- MOVESTOP at its take (R115).  A MOVESTOP in the final step sets the stop request too; that step then completes. -/
def movestop (s : State) : State :=
  if s.ctl.istate ≠ .running ∧ !s.ctl.istate.isDraining then recordCommand (Command.code .movestop) .badState s
  else if !s.mover.active then recordCommand (Command.code .movestop) .done s
  else if stepInProgress s then
    recordCommand (Command.code .movestop) .started (s.withMover { s.mover with stopReq := true })
  else recordCommand (Command.code .movestop) .started (moverEnds .moveAbort s)

end Sys2Proof.Machine
end

