-- ==== Sys2Proof/Machine/Clock.lean ====
section
/-! DEFINITION. Machine/Clock.lean: the Scan Clock Unit (Section 7). -/

namespace Sys2Proof.Machine

/-! ### Sources (R120) -/

/-- EXT and EXT_M depend on XCLK. -/
def ClockSource.external : ClockSource → Bool
  | .ext | .extM => true
  | .rcb | .rcf | .rcs | .rcfM => false

/-- RCF_M and EXT_M are the multiplied sources. -/
def ClockSource.multiplied : ClockSource → Bool
  | .rcfM | .extM => true
  | .rcb | .rcf | .rcs | .ext => false

/-- The strap source (R134). -/
def strapSource (cks : BitVec 2) : ClockSource :=
  if cks = 0 then .rcb else if cks = 1 then .rcf else if cks = 2 then .ext else .rcs

/-- The clock unit while RESET# is asserted: the strap source, READY or, for EXT, CHECKING; no pending switch, the timer
stopped, the multiplier OFF with input RCF and factor 0 (R134, R135). -/
def strapClock (cks : BitVec 2) : Clock where
  source := strapSource cks
  cond := if strapSource cks = .ext then .checking .strap else .ready
  switch := none
  mult := ⟨.off, .rcf, 0⟩
  timer := none

/-- The strap check begins: for a strap EXT the readiness timer counts from here (R134). -/
def Clock.beginStrapCheck (c : Clock) : Clock := if c.cond = .checking .strap then { c with timer := some 0 } else c

/-- The multiplier goes OFF and keeps its factor (R121). -/
def Multiplier.turnOff (m : Multiplier) : Multiplier := { m with state := .off }

/-- The multiplier enters LOCKING with this input (R121). -/
def Multiplier.start (m : Multiplier) (input : MultInput) : Multiplier := { m with state := .locking, input := input }

/-- The input of the multiplier for a multiplied source (R121). -/
def ClockSource.multInput : ClockSource → MultInput
  | .extM => .xclk
  | .rcb | .rcf | .rcs | .ext | .rcfM => .rcf

/-- The current source is being checked (R122). -/
def Clock.isChecking (c : Clock) : Bool :=
  match c.cond with
  | .checking _ => true
  | .ready | .stopped => false

/-- The current source uses XCLK (condition READY or CHECKING), so that the monitor watches it for it (R130). -/
def Clock.usesXclk (c : Clock) : Bool := c.source.external && !(c.cond == .stopped)

/-- The pending switch has an external target (R130). -/
def Clock.switchExternal (c : Clock) : Bool := c.switch.any fun p => p.target.external

/-- The clock monitor watches XCLK: not while RESET# is asserted (R130). -/
def xclkWatched (s : State) : Bool := !s.pins.reset && (s.clock.usesXclk || s.clock.switchExternal)

/-! ### CLKSEL (R123, R125, R126) -/

/-- The arguments of CLKSEL are out of range for a target (R123 check 3). -/
def badFactor (target : ClockSource) (factor : Word) : Bool :=
  match target with
  | .rcfM => decide (factor.toNat < 2) || decide (4 < factor.toNat)
  | .extM => decide (factor.toNat < 2) || decide (16 < factor.toNat)
  | .rcb | .rcf | .rcs | .ext => false

/-- XCLK is proven by the current source: EXT for an EXT_M target, EXT_M for an EXT target, READY (R126). -/
def Clock.xclkProven (c : Clock) (target : ClockSource) : Bool :=
  c.cond == .ready && ((c.source == .ext && target == .extM) || (c.source == .extM && target == .ext))

/-- The clock unit after an accepted CLKSEL: the pending switch, its factor and the multiplier's start (R125, R126). -/
def Clock.accept (c : Clock) (target : ClockSource) (factor : Word) : Clock :=
  match target with
  | .rcb | .rcf | .rcs => { c with switch := some ⟨target, 0, .ready⟩, timer := none }
  | .ext =>
    if c.xclkProven .ext then { c with switch := some ⟨.ext, 0, .ready⟩, timer := none }
    else { c with switch := some ⟨.ext, 0, .waitReady⟩, timer := some 0 }
  | .rcfM =>
    { c with switch := some ⟨.rcfM, factor.setWidth 5, .waitReady⟩, timer := some 0
             mult := ⟨.locking, .rcf, factor.setWidth 5⟩ }
  | .extM =>
    { c with switch := some ⟨.extM, factor.setWidth 5, .waitReady⟩, timer := some 0
             mult := ⟨if c.xclkProven .extM then .locking else .off, .xclk, factor.setWidth 5⟩ }

/-- The clock unit after a pending switch is applied: the target is the current source, READY; the multiplier stays LOCKED for
a multiplied target and is OFF otherwise (R129). -/
def Clock.applied (c : Clock) (target : ClockSource) : Clock :=
  { c with source := target, cond := .ready, switch := none, timer := none
           mult := if target.multiplied then c.mult else c.mult.turnOff }

/-- Apply a pending switch that is READY; CLKDONE is raised (R128, R129). -/
def applyReadySwitch (s : State) : State :=
  match s.clock.switch with
  | some ⟨target, _, .ready⟩ => raise .clkDone (s.withClock (s.clock.applied target))
  | some ⟨_, _, .waitReady⟩ | none => s

/-- In PASSIVE a READY switch is applied at once (R128). -/
def applyIfPassive (s : State) : State := if s.ctl.istate = .passive then applyReadySwitch s else s

/-- The checks of CLKSEL in the order of R123, with the target: a result that leaves the unit unchanged, or none where a
pending switch is made. -/
def clkselRefusal (s : State) (target : ClockSource) : Option Result :=
  if badFactor target (s.ctl.args.get 1) then some .badArg
  else if target.external && eventSet s.ctl.events .clkFail then some .badSwitch
  else if target.multiplied && s.clock.source.multiplied then some .badSwitch
  else if target = s.clock.source then some .done
  else none

/-- CLKSEL at its take (R123, R125). -/
def clksel (s : State) : State :=
  if s.ctl.istate ≠ .passive ∧ s.ctl.istate ≠ .running then recordCommand (Command.code .clksel) .badState s
  else if s.clock.switch.isSome || s.clock.isChecking then recordCommand (Command.code .clksel) .busy s
  else match sourceOfCode (s.ctl.args.get 0) with
    | none => recordCommand (Command.code .clksel) .badArg s
    | some target => match clkselRefusal s target with
      | some r => recordCommand (Command.code .clksel) r s
      | none =>
        applyIfPassive (recordCommand (Command.code .clksel) .started
          (s.withClock (s.clock.accept target (s.ctl.args.get 1))))

/-! ### Readiness, lock, timeout and loss (R126, R127, R130 to R134) -/

/-- The pending switch becomes READY and the readiness timer stops (R126); in PASSIVE it is applied (R128). -/
def switchReady (p : PendingSwitch) (s : State) : State :=
  applyIfPassive (s.withClock { s.clock with switch := some { p with phase := .ready }, timer := none })

/-- A check or restart ends READY: no event (R133, R134). -/
def checkReady (s : State) : State := s.withClock { s.clock with cond := .ready, timer := none }

/-- XCLK was watched for 1024 RCB clocks: the multiplier enters LOCKING with input XCLK (R126, R133). -/
def startXclkLock (s : State) : State :=
  s.withClock { s.clock with mult := s.clock.mult.start .xclk, timer := some (BitVec.ofNat 14 Config.continuityClocks) }

/-- XCLK has shown 1024 RCB clocks without a loss (R126, R133, R134). -/
def xclkContinuityReady (s : State) : State :=
  if s.pins.reset then s
  else if s.clock.isChecking then
    match s.clock.source with
    | .ext => checkReady s
    | .extM => if s.clock.mult.state = .off then startXclkLock s else s
    | .rcb | .rcf | .rcs | .rcfM => s
  else match s.clock.switch with
    | some ⟨.ext, f, .waitReady⟩ => switchReady ⟨.ext, f, .waitReady⟩ s
    | some ⟨.extM, _, .waitReady⟩ => if s.clock.mult.state = .off then startXclkLock s else s
    | some _ | none => s

/-- The multiplier reaches LOCKED, making its switch or restart ready (R121, R126, R133). -/
def multiplierLocked (s : State) : State :=
  if s.clock.mult.state ≠ .locking then s
  else
    let s := s.withClock { s.clock with mult := { s.clock.mult with state := .locked } }
    if s.clock.isChecking then checkReady s
    else match s.clock.switch with
      | some ⟨target, f, .waitReady⟩ => if target.multiplied then switchReady ⟨target, f, .waitReady⟩ s else s
      | some ⟨_, _, .ready⟩ | none => s

/-- A pending switch is abandoned: the record goes, the multiplier goes OFF for a multiplied target, CLKABORT is raised
(R127, R132). -/
def abandonSwitch (p : PendingSwitch) (s : State) : State :=
  raise .clkAbort
    (s.withClock { s.clock with switch := none, timer := none
                                mult := if p.target.multiplied then s.clock.mult.turnOff else s.clock.mult })

/-- The current source becomes RCB, READY; a multiplier that served it goes OFF (R131, R133, R134). -/
def fallToRcb (c : Clock) : Clock :=
  { c with source := .rcb, cond := .ready, mult := if c.source.multiplied then c.mult.turnOff else c.mult
           timer := if c.isChecking then none else c.timer }

/-- The readiness timer reaches 8192 RCB clocks (R127, R133, R134). -/
def readinessTimeout (s : State) : State :=
  if s.clock.timer.isNone then s
  else match s.clock.cond with
    | .checking .strap => raise .clkFail (s.withClock (fallToRcb s.clock))
    | .checking .restart => raise .clkAbort (s.withClock (fallToRcb s.clock))
    | .ready | .stopped => match s.clock.switch with
      | some ⟨target, f, .waitReady⟩ => abandonSwitch ⟨target, f, .waitReady⟩ s
      | some ⟨_, _, .ready⟩ | none => s

/-- The failover of a current source that uses XCLK (R131), or the end of its check by a loss (R133, R134): RCB, READY,
and CLKFAIL. -/
def failover (s : State) : State :=
  if s.clock.usesXclk then raise .clkFail (s.withClock (fallToRcb s.clock)) else s

/-- A loss abandons a pending switch to an external target (R132). -/
def abandonExternal (s : State) : State :=
  match s.clock.switch with
  | some p => if p.target.external then abandonSwitch p s else s
  | none => s

/-- A loss of XCLK is declared while the monitor watches it (R130 to R134). -/
def lossOfXclk (s : State) : State := if xclkWatched s then abandonExternal (failover s) else s

/-! ### DORMANT and restart (R133) -/

/-- On entry to DORMANT every source but RCB stops and the multiplier goes OFF (R133). -/
def stopClocks (c : Clock) : Clock :=
  { c with cond := if c.source = .rcb then .ready else .stopped, mult := c.mult.turnOff }

/-- On leaving DORMANT the current source is restarted (R133). -/
def restartClock (c : Clock) : Clock :=
  match c.source with
  | .rcb | .rcf | .rcs => { c with cond := .ready }
  | .ext | .extM => { c with cond := .checking .restart, timer := some 0 }
  | .rcfM => { c with cond := .checking .restart, timer := some 0, mult := c.mult.start .rcf }

end Sys2Proof.Machine
end

