-- ==== Sys2Proof/Machine/Control.lean ====
section
/-! DEFINITION. Machine/Control.lean: the Interposer Controller (Sections 8 and 9): setup validation and the wake check,
ENGAGE, DISENGAGE, QUIESCE, RESUME, COMMIT, ACK and SETPTR, the argument latches, the setup port with the staging of the table
base (R98, R99), and the decoding of a control-page write at its take (R151, R153). -/

namespace Sys2Proof.Machine

/-! ### Setup validation (R139, R146) -/

/-- A table of this base and this many lines lies within memory and outside the control page (R99, R139). -/
def tableAllowed (cps : BitVec 3) (base lines : Nat) : Bool :=
  decide (base + 4 * lines ≤ Config.memoryBytes) &&
    !(decide (base < controlBase cps + Config.controlBytes) && decide (controlBase cps < base + 4 * lines))

/-- The row table check on TABLE_LO and TABLE_HI (R139 index 7, R99): TABLE_HI at most 31 and the table allowed. -/
def tableHiAllowed (cps : BitVec 3) (lo hi : Word) (lines : Nat) : Bool :=
  decide (hi.toNat ≤ 31) && tableAllowed cps (hi.toNat * 0x10000 + lo.toNat) lines

/-- TABLE_LO is a multiple of 4 (R139 index 6, R99). -/
def aligned (lo : Word) : Bool := lo.toNat % 4 == 0

/-- First page of the control page (R3). -/
def controlFirstPage (cps : BitVec 3) : Nat := controlBase cps / 256

/-- An enabled window fails when its first page is greater than its last, or it includes a page of the control page
(R139 indexes 9 to 15). -/
def windowFails (cps : BitVec 3) (setup : Vector Word 17) (w : Fin 17 × Fin 17) : Bool :=
  windowEnabled setup w &&
    (decide (windowLast setup w < windowFirst setup w) ||
      (decide (windowFirst setup w < controlFirstPage cps + 16) && decide (controlFirstPage cps ≤ windowLast setup w)))

/-- Field 0: the mode code is 1, 2 or 3 and the role code 0, 1 or 2 (R139). -/
def modeFails (w : Word) : Bool := modeCode w == 0 || roleCode w == 3

/-- The checks of fields 1 to 5 with their indexes: those of the wake check (R146), and of ENGAGE (R139). -/
def geometryChecks (setup : Vector Word 17) : List (Fin 16 × Bool) :=
  [(1, decide (field setup 1 < 1) || decide (256 < field setup 1)),
   (2, decide (field setup 2 < 1) || decide (512 < field setup 2)),
   (3, decide (field setup 3 < 32) || decide (4095 < field setup 3) || decide (field setup 3 < field setup 2 + 12)),
   (4, decide (field setup 4 < 1) || decide (63 < field setup 4)),
   (5, decide (field setup 5 < 1) || decide (255 < field setup 5))]

/-- The checks of ENGAGE in the order of the field indexes (R139). -/
def engageChecks (cps : BitVec 3) (setup : Vector Word 17) : List (Fin 16 × Bool) :=
  [(0, modeFails (setup.get 0))] ++ geometryChecks setup ++
  [(6, !aligned (setup.get 6)),
   (7, !tableHiAllowed cps (setup.get 6) (setup.get 7) (field setup 1)),
   (9, windowFails cps setup (8, 9)), (11, windowFails cps setup (10, 11)),
   (13, windowFails cps setup (12, 13)), (15, windowFails cps setup (14, 15))]

/-- The index of the first failing check. -/
def firstFault (checks : List (Fin 16 × Bool)) : Option (Fin 16) := (checks.find? fun c => c.2).map fun c => c.1

/-- The setup field that ENGAGE finds at fault, if any (R139). -/
def engageFault (s : State) : Option (Fin 16) := firstFault (engageChecks s.pins.cps s.ctl.setup)

/-- The setup field that the wake check finds at fault, if any (R146). -/
def wakeFault (s : State) : Option (Fin 16) := firstFault (geometryChecks s.ctl.setup)

/-! ### State changes -/

/-- The interposer state becomes `i`. -/
def setIState (i : IState) (s : State) : State := s.withCtl { s.ctl with istate := i }

/-- The part leaves DORMANT for STARTING: the current source is restarted, the setup fault index is none, the frame count and
the mode in force are kept (R146). -/
def leaveDormant (s : State) : State :=
  (s.withCtl { s.ctl with istate := .starting, setupFault := none }).withClock (restartClock s.clock)

/-- A WAKE arrival, or WAKE found at entry: the wake check, then STARTING, or REFUSED with the setup fault index and no change
of the command record (R146). -/
def wakeUp (s : State) : State :=
  match wakeFault s with
  | none => leaveDormant s
  | some i => raise .refused (s.withCtl { s.ctl with setupFault := some i })

/-! ### ENGAGE, DISENGAGE, QUIESCE, RESUME (R137, R139 to R146) -/

/-- An accepted ENGAGE: the mode in force from MODE, the frame count 0, base in force and staged base from the record, no
setup fault, STARTING (R140, R98). -/
def engageAccepted (s : State) : State :=
  (s.withCtl { s.ctl with istate := .starting, mode := modeOf (s.ctl.setup.get 0), setupFault := none }).withScan
    { s.scan with frames := 0, base := formBase (s.ctl.setup.get 6) (s.ctl.setup.get 7)
                  stagedLo := s.ctl.setup.get 6, stagedHi := s.ctl.setup.get 7, stagedReady := false }

/-- ENGAGE at its take (R137, R139, R140). -/
def engage (s : State) : State :=
  if s.ctl.istate ≠ .passive then recordCommand (Command.code .engage) .badState s
  else match engageFault s with
    | none => recordCommand (Command.code .engage) .started (engageAccepted s)
    | some i => recordCommand (Command.code .engage) .badSetup (s.withCtl { s.ctl with setupFault := some i })

/-- DISENGAGE at its take (R137, R138, R141, R145).  A READY switch is applied on entering PASSIVE (R128). -/
def disengage (s : State) : State :=
  match s.ctl.istate with
  | .passive => recordCommand (Command.code .disengage) .done s
  | .starting => recordCommand (Command.code .disengage) .done (applyReadySwitch (setIState .passive s))
  | .running => recordCommand (Command.code .disengage) .started (setIState (.draining .passive false) s)
  | .draining _ _ => recordCommand (Command.code .disengage) .busy s
  | .dormant =>
    recordCommand (Command.code .disengage) .done ((setIState .passive s).withClock (restartClock s.clock))

/-- QUIESCE at its take (R137, R142). -/
def quiesce (s : State) : State :=
  match s.ctl.istate with
  | .running =>
    if s.clock.switch.isSome then recordCommand (Command.code .quiesce) .busy s
    else recordCommand (Command.code .quiesce) .started (setIState (.draining .dormant false) s)
  | .draining _ _ => recordCommand (Command.code .quiesce) .busy s
  | .passive | .starting | .dormant => recordCommand (Command.code .quiesce) .badState s

/-- RESUME at its take (R137, R146). -/
def resume (s : State) : State :=
  if s.ctl.istate ≠ .dormant then recordCommand (Command.code .resume) .badState s
  else match wakeFault s with
    | none => recordCommand (Command.code .resume) .started (leaveDormant s)
    | some i => recordCommand (Command.code .resume) .badSetup (s.withCtl { s.ctl with setupFault := some i })

/-! ### COMMIT and spill (R28, R31) -/

/-- The commit of the OPEN generation; a held write may be due, since folded entries leave (R24, R31). -/
def commitOpen (s : State) : State :=
  noteWait (s.queue.any (folds s.queue)) false (s.withQueue (commitQueue s.queue))

/-- COMMIT at its take (R31, R137). -/
def commit (s : State) : State :=
  if s.ctl.istate ≠ .running then recordCommand (Command.code .commit) .badState s
  else if s.ctl.mode.sharing ≠ .commit then recordCommand (Command.code .commit) .badMode s
  else recordCommand (Command.code .commit) .done (commitOpen s)

/-- A spill: an automatic commit that raises SPILL and is no command (R28). -/
def spill (s : State) : State := raise .spill (s.withQueue (commitQueue s.queue))

/-! ### ACK and SETPTR (R156, R157) -/

/-- ACK at its take: the event bits set in ARG0 are cleared (R156). -/
def ackEvents (s : State) : State :=
  recordCommand (Command.code .ack) .done
    (s.withCtl { s.ctl with events := s.ctl.events &&& ~~~((s.ctl.args.get 0).extractLsb' 0 13) })

/-- SETPTR at its take (R157). -/
def setptr (s : State) : State :=
  if (s.ctl.args.get 0).toNat ≤ 16 then
    recordCommand (Command.code .setptr) .done
      (s.withCtl { s.ctl with ptr := Fin.ofNat 17 (s.ctl.args.get 0).toNat })
  else recordCommand (Command.code .setptr) .badArg s

/-! ### Command, argument and setup writes at their take (R151 to R154, R160, R161) -/

/-- A command at its take (R153). -/
def runCommand (c : Command) (s : State) : State :=
  match c with
  | .engage => engage s
  | .disengage => disengage s
  | .quiesce => quiesce s
  | .resume => resume s
  | .commit => commit s
  | .fill => fill s
  | .copy => copy s
  | .movestop => movestop s
  | .clksel => clksel s
  | .ack => ackEvents s
  | .setptr => setptr s

/-- A full-word COMMAND write of no command code (R153). -/
def unknownCommand (code : Word) (s : State) : State := recordCommand code .unknown s

/-- A COMMAND write that is not a full word: the code recorded reads H'00 in a lane not enabled (R154). -/
def malformedCommand (data : Word) (lanes : Lanes) (s : State) : State :=
  recordCommand (mergeLanes 0 data lanes) .malformed s

/-- A write to COMMAND at its take (R153, R154). -/
def commandWritten (data : Word) (lanes : Lanes) (s : State) : State :=
  if lanes.full then
    match commandOfCode data with
    | some c => runCommand c s
    | none => unknownCommand data s
  else malformedCommand data lanes s

/-- A write to an argument word at its take: the latch changes byte by byte (R152). -/
def argumentWritten (n : Fin 6) (data : Word) (lanes : Lanes) (s : State) : State :=
  s.withCtl { s.ctl with args := s.ctl.args.set n (mergeLanes (s.ctl.args.get n) data lanes) }

/-- The setup field at the pointer takes a value (R160). -/
def storeField (v : Word) (s : State) : State := s.withCtl { s.ctl with setup := s.ctl.setup.set s.ctl.ptr v }

/-- TABLE_LO reaches the Scan Engine: the staged low half takes the value and the ready flag clears; in PASSIVE and DORMANT
the base in force takes it too, with bits 1–0 as 0 (R98). -/
def stageLo (v : Word) (s : State) : State :=
  s.withScan { s.scan with
    stagedLo := v, stagedReady := false
    base := if s.ctl.istate.quiet then (s.scan.base.extractLsb' 16 5 ++ v) &&& 0x1FFFFC else s.scan.base }

/-- The staged base passes the check of R99. -/
def stagedPasses (s : State) (hi : Word) : Bool :=
  aligned s.scan.stagedLo && tableHiAllowed s.pins.cps s.scan.stagedLo hi s.lines

/-- TABLE_HI reaches the Scan Engine: in PASSIVE and DORMANT the high half of both bases takes the value and the ready flag
clears; otherwise the staged base is checked, and the ready flag is set or REFUSED is raised (R98, R99). -/
def stageHi (v : Word) (s : State) : State :=
  if s.ctl.istate.quiet then
    s.withScan { s.scan with
      stagedHi := v, stagedReady := false, base := v.extractLsb' 0 5 ++ s.scan.base.extractLsb' 0 16 }
  else
    raiseIf (!stagedPasses s v) .refused
      (s.withScan { s.scan with stagedHi := v, stagedReady := stagedPasses s v })

/-- What the user of a live field does with a stored value (R98, R160, R162). -/
def fieldStored (i : Fin 17) (v : Word) (s : State) : State :=
  if i = 6 then stageLo v s else if i = 7 then stageHi v s else s

/-- The pointer after a full-word setup-port write (R159). -/
def advancePtr (s : State) : State := s.withCtl { s.ctl with ptr := nextPtr s.ctl.ptr }

/-- A setup-port write at its take (R160, R161). -/
def setupWritten (data : Word) (lanes : Lanes) (s : State) : State :=
  if !lanes.full then raise .refused s
  else if staticField s.ctl.ptr && !s.ctl.istate.quiet then advancePtr (raise .refused s)
  else advancePtr (fieldStored s.ctl.ptr data (storeField data s))

/-- What a taken write to a word of the control page does there (R151). -/
def wordWritten (c : ControlWord) (data : Word) (lanes : Lanes) (s : State) : State :=
  match c with
  | .command => commandWritten data lanes s
  | .arg n => argumentWritten n data lanes s
  | .setupPort => setupWritten data lanes s
  | .status _ | .other => s

/-- The decoding of a taken write by the word of the control page it reaches, if any; not while RESET# is asserted (R8, R151). -/
def controlTaken (w : HostWrite) (s : State) : State :=
  match controlWord s.pins.cps w.addr with
  | some c => decoded (wordWritten c w.data w.lanes) s
  | none => s

/-! ### The meanings of the command rows: the command's write is taken at this instant (log 6) -/

/-- ENGAGE (R139, R140). -/
def execEngage (s : State) : Host.Outcome State Fault Refusal := .next (decoded engage s)
/-- DISENGAGE (R137, R141, R145). -/
def execDisengage (s : State) : Host.Outcome State Fault Refusal := .next (decoded disengage s)
/-- QUIESCE (R142). -/
def execQuiesce (s : State) : Host.Outcome State Fault Refusal := .next (decoded quiesce s)
/-- RESUME (R146). -/
def execResume (s : State) : Host.Outcome State Fault Refusal := .next (decoded resume s)
/-- COMMIT (R31). -/
def execCommit (s : State) : Host.Outcome State Fault Refusal := .next (decoded commit s)
/-- FILL (R104); the first step claim is granted at once at an idle port (R63). -/
def execFill (s : State) : Host.Outcome State Fault Refusal := .next (settle (decoded fill s))
/-- COPY (R105); the first step claim is granted at once at an idle port (R63). -/
def execCopy (s : State) : Host.Outcome State Fault Refusal := .next (settle (decoded copy s))
/-- MOVESTOP (R115); entries it unblocks claim the port (R37). -/
def execMovestop (s : State) : Host.Outcome State Fault Refusal := .next (settle (decoded movestop s))
/-- CLKSEL (R123). -/
def execClksel (s : State) : Host.Outcome State Fault Refusal := .next (decoded clksel s)
/-- ACK (R156). -/
def execAck (s : State) : Host.Outcome State Fault Refusal := .next (decoded ackEvents s)
/-- SETPTR (R157). -/
def execSetptr (s : State) : Host.Outcome State Fault Refusal := .next (decoded setptr s)

/-- UNKNOWN_COMMAND (R153); a word that names a command is no such event (log 17). -/
def execUnknownCommand (code : Word) (s : State) : Host.Outcome State Fault Refusal :=
  .next (if (commandOfCode code).isSome then s else decoded (unknownCommand code) s)

/-- MALFORMED_COMMAND (R154); a full word is no such event (log 17). -/
def execMalformedCommand (data : Word) (lanes : Lanes) (s : State) : Host.Outcome State Fault Refusal :=
  .next (if lanes.full then s else decoded (malformedCommand data lanes) s)

/-- ARGUMENT_WRITE (R152). -/
def execArgumentWrite (n : Fin 6) (data : Word) (lanes : Lanes) (s : State) : Host.Outcome State Fault Refusal :=
  .next (decoded (argumentWritten n data lanes) s)

/-- SETUP_PORT_WRITE (R160, R161). -/
def execSetupPortWrite (data : Word) (lanes : Lanes) (s : State) : Host.Outcome State Fault Refusal :=
  .next (decoded (setupWritten data lanes) s)

/-- WAKE_ARRIVAL: in DORMANT the wake check; in any other state, and while RESET# is asserted, no effect but on the pin
(R146, R147). -/
def wakeArrival (s : State) : State :=
  let s := s.withPins { s.pins with wake := true }
  if s.ctl.istate = .dormant ∧ !s.pins.reset then wakeUp s else s

/-- WAKE_ARRIVAL (R146, R147). -/
def execWakeArrival (s : State) : Host.Outcome State Fault Refusal := .next (wakeArrival s)

/-- LOSS_OF_XCLK (R130 to R134). -/
def execLossOfXclk (s : State) : Host.Outcome State Fault Refusal := .next (lossOfXclk s)
/-- XCLK_CONTINUITY_READY (R126, R133, R134). -/
def execXclkContinuityReady (s : State) : Host.Outcome State Fault Refusal := .next (xclkContinuityReady s)
/-- MULTIPLIER_LOCKED (R121, R126, R133). -/
def execMultiplierLocked (s : State) : Host.Outcome State Fault Refusal := .next (multiplierLocked s)
/-- READINESS_TIMEOUT (R127, R133, R134). -/
def execReadinessTimeout (s : State) : Host.Outcome State Fault Refusal := .next (readinessTimeout s)

end Sys2Proof.Machine
end

