-- ==== Sys2Proof/Machine/Scan.lean ====
section
/-! DEFINITION. Machine/Scan.lean: the Scan Engine and the Panel Port (Section 5): the panel outputs, the cut, the line switch,
the frame gap, the drain gap and its end (R87, R144), the first cut with its hand-over (R72), and the end of a line fetch. -/

namespace Sys2Proof.Machine

/-! ### The Panel Port (R95 to R97) -/

/-- The levels of PD5–PD0 for column `c` of a line: bits 5–0 of the word (R96); a DARK line holds them low (R95). -/
def columnLanes (b : LineBuffer) (c : Nat) : BitVec 6 :=
  if b.kind = .data then (b.words[c]?.getD 0).extractLsb' 0 6 else 0

/-- The panel outputs at scan clock `c` of a line period, in the first or second half of that clock, for the buffer SHOWING (R95).
After the column shift the levels of PD5–PD0 are a free value (log 4); PCK is low there (log 12). -/
def panelAt (s : State) (b : LineBuffer) (c : Nat) (half : Bool) : Panel where
  pd := if c < s.lineWords then columnLanes b c else Config.freeLanes s.free
  pck := b.kind == .data && decide (c < s.lineWords) && half
  plt := decide (c = s.lineWords)
  pls := if s.lineWords < c then b.line else s.panel.pls
  poe := b.kind == .data && decide (s.lineWords + 1 < c)
  fso := s.panel.fso

/-- The panel outputs in GAP and OFF: POE# deasserted, PCK, PLT and PD low, PLS and FSO as they are (R97). -/
def Panel.dark (p : Panel) : Panel := { p with pd := 0, pck := false, plt := false, poe := false }

/-- Drive the panel at scan clock `c` of the line period; a free value is used up in the clocks after the column shift. -/
def drivePanel (b : LineBuffer) (c : Nat) (half : Bool) (s : State) : State :=
  (s.withPanel (panelAt s b c half)).withFree (if c < s.lineWords then s.free else s.free + 1)

/-- The line timer reaches `clock` of the line period (R95): a position already passed, or outside the period, is no event. -/
def panelLineSequence (clock : BitVec 12) (half : Bool) (s : State) : State :=
  if s.scan.state = .showing ∧ s.scan.timer ≤ clock ∧ clock.toNat < s.linePeriod then
    drivePanel (bufferOf s.scan s.scan.line) clock.toNat half (s.withScan { s.scan with timer := clock })
  else s

/-! ### The cut (R78 to R81, R100) -/

/-- A line buffer becomes EMPTY; its other fields keep their values (log 18). -/
def LineBuffer.emptied (b : LineBuffer) : LineBuffer := { b with state := .empty }

/-- The base in force after a cut: a staged base whose ready flag is set is applied (R100). -/
def Scan.baseAfterCut (x : Scan) : ByteAddr := if x.stagedReady then formBase x.stagedLo x.stagedHi else x.base

/-- The Scan Engine's own changes at a cut (R78); the gap of a drain cut begins in EXTEND (R87). -/
def Scan.atCut (x : Scan) (drain : Bool) : Scan :=
  { x with
    state := .gap, sub := if drain then .extend else .count, timer := 0, gapCount := 0, ext := 0
    frames := x.frames + 1, base := x.baseAfterCut, stagedReady := false, walk := x.baseAfterCut
    bufA := x.bufA.emptied, bufB := x.bufB.emptied, syncSeen := false }

/-- The shift at an ordinary cut (R34), or the drain shift at the drain cut, which is the first cut in DRAINING (R35, R80). -/
def cutQueue (s : State) : State :=
  match s.ctl.istate with
  | .draining target _ =>
    noteWait (s.queue.any (folds s.queue)) false
      (setIState (.draining target true) (s.withQueue (drainShift s.queue)))
  | .passive | .starting | .running | .dormant => s.withQueue (cutShift s.ctl.mode.sharing s.queue)

/-- A cut (R78): the frame count, the staged base, the buffers, the panel, the shift, a READY clock switch, and FRAME. -/
def cut (s : State) : State :=
  applyReadySwitch (raise .frame (cutQueue
    ((s.withScan (s.scan.atCut s.ctl.istate.isDraining)).withPanel s.panel.dark)))

/-! ### The line switch (R94) -/

/-- The buffer that does not hold lines of this parity (R90). -/
def otherBuffer (x : Scan) (line : BitVec 8) : LineBuffer := if line.getLsbD 0 then x.bufA else x.bufB

/-- Buffer n at its switch: a REPEAT buffer takes the data of the line just shown with data, or becomes DARK, and line 0 does
(R94); the buffer becomes SHOWING. -/
def switchedBuffer (x : Scan) (n : BitVec 8) : LineBuffer :=
  let b := bufferOf x n
  let prev := otherBuffer x n
  match b.kind with
  | .repeated =>
    if n ≠ 0 ∧ prev.state = .showing ∧ prev.kind = .data then
      { b with kind := .data, words := prev.words, state := .showing }
    else { b with kind := .dark, words := [], state := .showing }
  | .data | .dark => { b with state := .showing }

/-- The buffer that was SHOWING becomes EMPTY (R94). -/
def LineBuffer.leftPanel (b : LineBuffer) : LineBuffer := if b.state = .showing then b.emptied else b

/-- The line whose fetch falls due at the switch to line n (R91). -/
def dueAfter (lines : Nat) (n : BitVec 8) : Option (BitVec 8) := if n.toNat + 1 < lines then some (n + 1) else none

/-- The Scan Engine at the switch to line n (R94). -/
def Scan.switchTo (x : Scan) (lines : Nat) (n : BitVec 8) : Scan :=
  let b := switchedBuffer x n
  let other := (otherBuffer x n).leftPanel
  { x with
    state := .showing, line := n, fetchDue := dueAfter lines n
    bufA := if n.getLsbD 0 then other else b
    bufB := if n.getLsbD 0 then b else other }

/-- The switch to line n: MARK and BLANKED are raised as the buffer carries them, FSO is low, and the panel runs the sequence of
R95 from clock 0 (R86, R94). -/
def lineSwitch (n : BitVec 8) (s : State) : State :=
  let b := switchedBuffer s.scan n
  drivePanel b 0 false
    (raiseIf b.aborted .blanked (raiseIf b.mark .mark
      ((s.withScan (s.scan.switchTo s.lines n)).withPanel { s.panel with fso := false })))

/-! ### The frame gap (R82 to R86) -/

/-- The queue holds no RETIRING entry (R83). -/
def retired (s : State) : Bool := !hasGen s.queue .retiring

/-- The sync condition of R83 but for the end of a FOLLOWER's wait. -/
def synced (s : State) : Bool := !(s.ctl.mode.role == .follower) || s.scan.syncSeen

/-- LEAD_IN begins: the fetch for line 0 falls due, and a LEADER drives FSO high (R86, R91). -/
def beginLeadIn (s : State) : State :=
  (s.withScan { s.scan with sub := .leadIn, fetchDue := some 0 }).withPanel
    { s.panel with fso := s.ctl.mode.role == .leader }

/-- The extension count after one more period: it saturates at H'FFFF (R83). -/
def saturate (n : BitVec 16) : BitVec 16 := if n = 0xFFFF then n else n + 1

/-- The gap goes on in EXTEND by one period (R83); a sync wait also counts in the sync wait count (R84). -/
def extendGap (waited : Bool) (s : State) : State :=
  s.withScan { s.scan with
    sub := .extend, ext := saturate s.scan.ext
    gapCount := if waited then s.scan.gapCount + 1 else s.scan.gapCount }

/-- A checked boundary (R83, R84). -/
def checkGap (s : State) : State :=
  if !retired s then extendGap false s
  else if synced s then beginLeadIn s
  else if s.syncLimit ≤ s.scan.gapCount.toNat then raise .syncLost (beginLeadIn s)
  else extendGap true s

/-- A boundary in COUNT: the gap period count grows; when it reaches GAP_LINES it becomes 0 and the boundary is checked (R82). -/
def countGap (s : State) : State :=
  if s.gapLines ≤ s.scan.gapCount.toNat + 1 then checkGap (s.withScan { s.scan with gapCount := 0 })
  else s.withScan { s.scan with gapCount := s.scan.gapCount + 1 }

/-! ### The end of a drain (R73, R87, R144, R145) -/

/-- Entry to DORMANT: the clocks stop, then WAKE is sampled, and if it is asserted the part makes the wake check (R133, R145). -/
def enterDormant (wake : Bool) (s : State) : State :=
  let s := (setIState .dormant s).withClock (stopClocks s.clock)
  if wake then wakeUp s else s

/-- The pass-through path opens: the state becomes the drain target, STATE is raised, and the rest follows from the target
(R144, R145, R128). -/
def openPath (wake : Bool) (s : State) : State :=
  let s := s.withPins { s.pins with wake := wake }
  match s.ctl.istate with
  | .draining .passive _ => applyReadySwitch (raise .stateChange (setIState .passive s))
  | .draining .dormant _ => enterDormant wake (raise .stateChange s)
  | .passive | .starting | .running | .dormant => s

/-- The boundary at which the drain ends finds every block clear, so a held write claims its direct tenure there (R15, R73). -/
def HostAccess.claimAtDrainEnd : HostAccess → HostAccess
  | .writeWait w _ _ => .writeClaim w
  | a => a

/-- The drain ends: the scan goes OFF with the timer at 0 (R87).  With no host tenure in progress and no host claim the path opens
now, otherwise at the end of that tenure (R73).  DESIGN CHOICE: a read answered without a tenure, or a taken write, that is in its minimum hold
there is held on: HWAIT stays asserted until MINIMUM_HOLD_ELAPSED, where R2 and R52 give that hold one scan clock, R7 has HWAIT released once the path
is open, and R56 settles interventions only (log 24). -/
def drainEnds (wake : Bool) (s : State) : State :=
  let s := (s.withScan { s.scan with state := .off, timer := 0 }).withHost
    { s.host with access := s.host.access.claimAtDrainEnd }
  if s.host.access.claims || s.port.tenure.isSome then s else openPath wake s

/-- A checked boundary of a drain gap (R87). -/
def drainCheck (wake : Bool) (s : State) : State :=
  if s.queue.isEmpty && !s.mover.active then drainEnds wake s else extendGap false s

/-! ### LINE_PERIOD_BOUNDARY (R76, R77) -/

/-- A boundary at the end of a line's period in SHOW: PLS has been driven with its index (R95); the next line is switched onto the
panel, or after the last line the cut is made (R77, R78). -/
def endLinePeriod (s : State) : State :=
  let s := s.withPanel { s.panel with pls := s.scan.line }
  if s.lines ≤ s.scan.line.toNat + 1 then cut s else lineSwitch (s.scan.line + 1) s

/-- What a boundary in GAP does, by the sub-phase (R82, R83, R86, R87). -/
def gapBoundary (wake : Bool) (s : State) : State :=
  match s.scan.sub with
  | .count => countGap s
  | .extend => if s.ctl.istate.afterDrainCut then drainCheck wake s else checkGap s
  | .leadIn => lineSwitch 0 s

/-- What a boundary does, by the scan state (R76). -/
def boundary (wake : Bool) (s : State) : State :=
  match s.scan.state with
  | .off => s
  | .showing => endLinePeriod s
  | .gap => gapBoundary wake s

/-- A line fetch is due or in progress: no boundary falls then (R68, log 11). -/
def fetchOutstanding (s : State) : Bool := s.scan.fetchDue.isSome || s.port.tenure.any Tenure.isLineFetch

/-- The line timer returns to 0 (R76).  While the scan is OFF no boundary occurs. -/
def linePeriodBoundary (wake : Bool) (s : State) : State :=
  if s.scan.state = .off ∨ fetchOutstanding s then s
  else settle (boundary wake (s.withScan { s.scan with timer := 0 }))

/-! ### FRAME_SYNC_ARRIVAL (R85) -/

/-- An arrival sets sync-seen for a FOLLOWER in COUNT or EXTEND, and has no effect otherwise (R85). -/
def frameSyncArrival (s : State) : State :=
  if s.ctl.mode.role = .follower ∧ s.scan.state = .gap ∧ s.scan.sub ≠ .leadIn then
    s.withScan { s.scan with syncSeen := true }
  else s

/-! ### FIRST_CUT (R72, R79, R141) -/

/-- The hand-over of the pass-through access in progress at the first cut (R72).  An intervention completes as R56 gives. -/
def handOver (access : CutAccess) (s : State) : State :=
  match access with
  | .none => s
  | .read a _ =>
    if (controlWord s.pins.cps a).any intervened then s
    else (s.withPort { s.port with tenure := some (.hostRead a a none none) }).withHost { s.host with access := .handedOver }
  | .write a d l =>
    if l.empty then controlTaken ⟨a, d, l⟩ (s.withHost { s.host with access := .none })
    else (s.withPort { s.port with tenure := some (.hostWrite ⟨a, d, l⟩) }).withHost { s.host with access := .handedOver }

/-- The first cut: in STARTING, when the current source is READY (R79, R141).  The cut is made in full, the state becomes RUNNING,
STATE is raised, the toggle is HOST_NEXT, and the access in progress is handed over. -/
def firstCut (access : CutAccess) (s : State) : State :=
  if s.ctl.istate = .starting ∧ s.clock.cond = .ready ∧ !s.pins.reset then
    handOver access ((raise .stateChange (setIState .running (cut s))).withPort ⟨none, .hostNext⟩)
  else s

/-! ### The end and the preemption of a line fetch (R70, R91, R92) -/

/-- The walk pointer advances by 4 (R89), and the buffer of a line is replaced. -/
def fetchLeaves (line : BitVec 8) (b : LineBuffer) (s : State) : State :=
  endTenure (s.withScan { setBuffer s.scan line b with walk := s.scan.walk + 4 })

/-- The end of a line fetch: the buffer takes kind, words and MARK and is READY (R91). -/
def fetchEnds (line : BitVec 8) (s : State) : State :=
  fetchLeaves line
    { bufferOf s.scan line with
      kind := entryKind (entryWord1 s), words := fetchedWords s, mark := entryMark (entryWord1 s), state := .ready } s

/-- The abort of a line fetch that had completed `cycles` port cycles before the one in progress at the preemption: the buffer is
READY, DARK, Aborted, with no words, and with MARK only where word 1 had been read (R92). -/
def fetchAborts (line : BitVec 8) (cycles : BitVec 10) (s : State) : State :=
  fetchLeaves line
    { bufferOf s.scan line with
      kind := .dark, words := [], mark := decide (2 ≤ cycles.toNat) && entryMark (entryWord1 s), state := .ready
      aborted := true } s

/-- The port cycle in progress is the last of the line fetch (R70). -/
def lastFetchCycle (s : State) (cycles : BitVec 10) : Bool := decide ((lineFetchOps s).length ≤ cycles.toNat + 1)

/-- LINE_FETCH_END (R91).  A fetch preempted in its last cycle ends normally and the port passes to the read (R70); a fetch preempted
before it does not come to its end. -/
def lineFetchEnd (s : State) : State :=
  match s.port.tenure with
  | some (.lineFetch line none) => settle (fetchEnds line s)
  | some (.lineFetch line (some c)) => if lastFetchCycle s c then settle (grantHost (fetchEnds line s)) else s
  | some (.hostRead _ _ _ _) | some (.hostWrite _) | some .retire | some (.fillStep _) | some (.copyStep _) | none => s

/-- PREEMPTED_FETCH_CYCLE_END (R70): the cycle in progress completes, the fetch is aborted (or, in its last cycle, ends normally), and
the read is granted ahead of any claimant. -/
def preemptedCycleEnd (s : State) : State :=
  match s.port.tenure with
  | some (.lineFetch line (some c)) =>
    settle (grantHost (if lastFetchCycle s c then fetchEnds line s else fetchAborts line c s))
  | some (.lineFetch _ none) | some (.hostRead _ _ _ _) | some (.hostWrite _) | some .retire | some (.fillStep _)
  | some (.copyStep _) | none => s

/-! ### The meanings -/

/-- LINE_FETCH_END (R91). -/
def execLineFetchEnd (s : State) : Host.Outcome State Fault Refusal := .next (lineFetchEnd s)
/-- PREEMPTED_FETCH_CYCLE_END (R70). -/
def execPreemptedFetchCycleEnd (s : State) : Host.Outcome State Fault Refusal := .next (preemptedCycleEnd s)
/-- LINE_PERIOD_BOUNDARY (R76). -/
def execLinePeriodBoundary (wake : Bool) (s : State) : Host.Outcome State Fault Refusal := .next (linePeriodBoundary wake s)
/-- FRAME_SYNC_ARRIVAL (R85). -/
def execFrameSyncArrival (s : State) : Host.Outcome State Fault Refusal := .next (frameSyncArrival s)
/-- FIRST_CUT (R79). -/
def execFirstCut (access : CutAccess) (s : State) : Host.Outcome State Fault Refusal := .next (firstCut access s)
/-- PANEL_PORT_LINE_SEQUENCE (R95). -/
def execPanelPortLineSequence (clock : BitVec 12) (half : Bool) (s : State) : Host.Outcome State Fault Refusal :=
  .next (panelLineSequence clock half s)

end Sys2Proof.Machine
end

