-- ==== Sys2Proof/Machine/HostAccess.lean ====
section
/-! DEFINITION. Machine/HostAccess.lean: the host's accesses (Sections 1 and 3): reads by intervention, pass-through and the Read
Resolver, the treatment of writes, held writes, and the ends of host, retire and mover tenures. -/

namespace Sys2Proof.Machine

/-! ### The host's bus -/

/-- The part still holds the previous access for a tenure or a wait; a minimum hold is over when the next access comes (log 8). -/
def HostAccess.busy : HostAccess → Bool
  | .readClaim _ _ | .writeClaim _ | .writeWait _ _ _ | .inTenure | .handedOver => true
  | .none | .readHold _ | .interventionHold _ | .writeHold _ => false

/-- A new access is held as `a`, its minimum hold not elapsed. -/
def holdAccess (a : HostAccess) (s : State) : State := s.withHost { s.host with access := a, holdElapsed := false }

/-- A word is driven on HD15–HD0. -/
def driveData (w : Word) (s : State) : State := s.withHost { s.host with data := w }

/-- An access present while another is held is a fault (log 8). -/
def oneAtATime (s : State) (t : State) : Host.Outcome State Fault Refusal :=
  if s.host.access.busy then .fault .hostAccessOverlap else .next t

/-! ### Reads (R1, R45, R50, R55, R70) -/

/-- The mode in force lets a host read preempt a line fetch (R70, R9). -/
def preemptMode (s : State) : Bool := s.ctl.mode.sharing == .direct && s.ctl.mode.preempt

/-- The port cycles a fetch has completed, kept below its length: its last cycle is the latest one in progress (R70). -/
def clampCycle (s : State) (cycle : BitVec 10) : BitVec 10 :=
  if lastFetchCycle s cycle then BitVec.ofNat 10 ((lineFetchOps s).length - 1) else cycle

/-- A read that needs a tenure, taken while a line fetch is in progress with PREEMPT set in DIRECT mode, preempts it (R70, R71). -/
def preemptFetch (cycle : BitVec 10) (s : State) : State :=
  match s.port.tenure with
  | some (.lineFetch line none) =>
    if preemptMode s then s.withPort { s.port with tenure := some (.lineFetch line (some (clampCycle s cycle))) } else s
  | some (.lineFetch _ (some _)) | some (.hostRead _ _ _ _) | some (.hostWrite _) | some .retire | some (.fillStep _)
  | some (.copyStep _) | none => s

/-- A read in RUNNING or DRAINING that is no intervention: answered from its sources, or a claim (R50, R51, R52). -/
def resolveRead (a : WordAddr) (lanes : Lanes) (cycle : BitVec 10) (s : State) : State :=
  if needsTenure s a lanes then settle (preemptFetch cycle (holdAccess (.readClaim a lanes) s))
  else driveData (suppliedAnswer s a) (holdAccess (.readHold a) s)

/-- A memory read over the pass-through path (R1, R7): the answer is the memory's, HWAIT is not asserted. -/
def passRead (a : WordAddr) (s : State) : State := driveData (Memory.readWord s.mem a) (holdAccess .none s)

/-- A read answered by intervention, held for the minimum (R55, R56). -/
def intervene (c : ControlWord) (s : State) : State := driveData (interventionAnswer s c) (holdAccess (.interventionHold c) s)

/-- A read that is no intervention. -/
def readWordTaken (a : WordAddr) (lanes : Lanes) (cycle : BitVec 10) (s : State) : State :=
  if sharing s then resolveRead a lanes cycle s else passRead a s

/-- A host read at its take (R1, R16). -/
def readTaken (a : WordAddr) (lanes : Lanes) (cycle : BitVec 10) (s : State) : State :=
  match controlWord s.pins.cps a with
  | some c => if intervened c then intervene c s else readWordTaken a lanes cycle s
  | none => readWordTaken a lanes cycle s

/-! ### The treatment of a write (R10 to R15, R23 to R28) -/

/-- The treatments of a write. -/
inductive Treatment where
  /-- Taken at once: it has no byte enable (R2). -/
  | take
  /-- Merged into the HELD entry of its block and this generation, and taken (R22). -/
  | merge (g : Generation)
  /-- Posted as a new entry of this generation, and taken (R21). -/
  | post (g : Generation)
  /-- It claims a direct tenure (R11, R15). -/
  | direct
  /-- It waits (R15, R23). -/
  | await (why : WaitFor)
  /-- It needs an entry and the queue is full (R24). -/
  | full
  deriving DecidableEq, Repr

/-- The generation a posted write receives (R10). -/
def writeGeneration (s : State) (a : WordAddr) : Generation :=
  if classify s a = .display ∧ s.ctl.mode.sharing ≠ .direct then .opn else .direct

/-- The write may take a direct tenure: it receives DIRECT, is not mover-hit, the queue holds no entry of its block, and the port is
free (R11, R14). -/
def mayGoDirect (s : State) (a : WordAddr) : Bool :=
  writeGeneration s a == .direct && !moverMeets s.mover (blockOf a) && !queueHasBlock s.queue (blockOf a) && portFree s

/-- The drain treatment (R15). -/
def drainTreatment (s : State) (a : WordAddr) : Treatment := if blockClear s (blockOf a) then .direct else .await .blockClears

/-- The treatment while writes are posted (R11 to R14, R21 to R23). -/
def postTreatment (s : State) (a : WordAddr) : Treatment :=
  match findEntry s.queue (blockOf a) (writeGeneration s a) with
  | some e => if e.isWriting then .await .writingEnds else .merge (writeGeneration s a)
  | none =>
    if mayGoDirect s a then .direct
    else if queueFull s.queue then .full
    else .post (writeGeneration s a)

/-- The treatment of a write, decided against the state (R2, R11 to R15). -/
def treatment (s : State) (w : HostWrite) : Treatment :=
  if w.lanes.empty then .take
  else if s.ctl.istate.afterDrainCut then drainTreatment s w.addr
  else postTreatment s w.addr

/-- A write is taken at its decision: HWAIT is released now or when the minimum hold has elapsed (R2), and a CONTROL write is decoded
(R3, R151). -/
def takeWrite (w : HostWrite) (s : State) : State :=
  controlTaken w (s.withHost { s.host with access := if s.host.holdElapsed then .none else .writeHold w })

/-- A write is held and waits. -/
def waitFor (w : HostWrite) (why : WaitFor) (s : State) : State := s.withHost { s.host with access := .writeWait w why false }

/-- Carry out a treatment. -/
def carryOut (w : HostWrite) (t : Treatment) (s : State) : State :=
  match t with
  | .take => takeWrite w s
  | .merge g => takeWrite w (s.withQueue (mergeWrite s.queue w g))
  | .post g => takeWrite w (s.withQueue (postWrite s.queue w g))
  | .direct => s.withHost { s.host with access := .writeClaim w }
  | .await why => waitFor w why s
  | .full => waitFor w .entryLeaves s

/-- A decision that finds the queue full makes a spill in COMMIT mode while it holds an OPEN entry (R13, R14, R27). -/
def spills (s : State) : Bool := s.ctl.mode.sharing == .commit && hasGen s.queue .opn

/-- A decision on a write in RUNNING or DRAINING.  After a spill the write is decided afresh at once (R27); it does not spill again, for no
OPEN entry is left. -/
def decideWrite (w : HostWrite) (s : State) : State :=
  if treatment s w = .full ∧ spills s then carryOut w (treatment (spill s) w) (spill s)
  else carryOut w (treatment s w) s

/-- The enabled bytes of a write in memory. -/
def writeMemory (w : HostWrite) (m : Memory) : Memory := (hostWriteOp w).apply m

/-- A write over the pass-through path: taken at the trailing edge, in memory, and decoded unless RESET# is asserted (R2, R7, R8). -/
def passWrite (w : HostWrite) (s : State) : State :=
  controlTaken w ((holdAccess .none s).withMem (writeMemory w s.mem))

/-- A host write is presented (R2). -/
def writePresented (w : HostWrite) (s : State) : State :=
  if sharing s then settle (decideWrite w (holdAccess .none s)) else passWrite w s

/-- HELD_WRITE_DECIDED_AFRESH (R24): the held write whose wait has ended. -/
def heldWriteDecided (s : State) : State :=
  match s.host.access with
  | .writeWait w _ true => settle (decideWrite w s)
  | .writeWait _ _ false | .none | .readHold _ | .interventionHold _ | .writeHold _ | .readClaim _ _ | .writeClaim _
  | .inTenure | .handedOver => s

/-! ### The ends of tenures (R40, R50, R73, R111) -/

/-- The host's access is complete. -/
def releaseHost (s : State) : State := s.withHost { s.host with access := .none }

/-- After the end of a host tenure: where the drain has ended the pass-through path opens, otherwise the port falls free (R73). -/
def afterHostTenure (wake : Bool) (s : State) : State :=
  if s.ctl.istate.afterDrainCut ∧ s.scan.state = .off then openPath wake s else settle s

/-- HOST_READ_TENURE_END (R50). -/
def hostReadTenureEnd (wake : Bool) (s : State) : State :=
  match s.port.tenure with
  | some (.hostRead _ chosen l0 l1) =>
    afterHostTenure wake (endTenure (releaseHost (driveData (tenureAnswer s.mem chosen l0 l1) s)))
  | some (.hostWrite _) | some .retire | some (.lineFetch _ _) | some (.fillStep _) | some (.copyStep _) | none => s

/-- HOST_DIRECT_WRITE_TENURE_END (R11): the write is in memory, is taken, and is decoded if it is CONTROL.  DESIGN CHOICE: the command it names (a
MOVESTOP, FILL or COPY) takes effect before the arbiter's choice at this fall-free, where R64, R116 and R153 allow either order (log 22); at the
end of a drain it is decoded before the path opens (log 9). -/
def hostWriteTenureEnd (wake : Bool) (s : State) : State :=
  match s.port.tenure with
  | some (.hostWrite w) =>
    afterHostTenure wake (controlTaken w (endTenure (releaseHost (s.withMem (memAfter s (.hostWrite w))))))
  | some (.hostRead _ _ _ _) | some .retire | some (.lineFetch _ _) | some (.fillStep _) | some (.copyStep _) | none => s

/-- The retirement of the WRITING entry leaves no RETIRING entry, and it was one (R41). -/
def visibleNow (q : List Entry) : Bool :=
  (writingEntry q).any (fun e => e.gen == .retiring) && !hasGen (removeWriting q) .retiring

/-- RETIRE_TENURE_END (R39, R40, R41). -/
def retireTenureEnd (s : State) : State :=
  match s.port.tenure with
  | some .retire =>
    settle (endTenure (raiseIf (visibleNow s.queue) .visible
      (noteWait true true ((s.withMem (memAfter s .retire)).withQueue (removeWriting s.queue)))))
  | some (.hostRead _ _ _ _) | some (.hostWrite _) | some (.lineFetch _ _) | some (.fillStep _) | some (.copyStep _)
  | none => s

/-- The end of a mover step of `k` words: memory has its accesses, then R111.  DESIGN CHOICE: the entries it unblocks take part in the arbiter's choice
at this fall-free, where R37, R64 and R111 allow either order; and the choice is made inside this command, so that a MOVESTOP at the same instant comes
before the step's end or after the grant and never between them, where R64 and R116 allow that order too: after the grant it finds the next step in
progress if the mover was granted (log 22). -/
def moverStepDone (t : Tenure) (k : Nat) (s : State) : State :=
  settle (stepEnded k (endTenure (s.withMem (memAfter s t))))

/-- MOVER_STEP_END (R109 to R111). -/
def moverStepEnd (s : State) : State :=
  match s.port.tenure with
  | some (.fillStep k) => moverStepDone (.fillStep k) k s
  | some (.copyStep k) => moverStepDone (.copyStep k) k s
  | some (.hostRead _ _ _ _) | some (.hostWrite _) | some .retire | some (.lineFetch _ _) | none => s

/-! ### The minimum hold (R2, R52, R56) -/

/-- The host side when the minimum hold of its access elapses: an answered or taken access is released; one that still waits is
released when it is answered or taken. -/
def HostBus.holdOver (h : HostBus) : HostBus :=
  match h.access with
  | .readHold _ | .interventionHold _ | .writeHold _ => { h with access := .none }
  | .readClaim _ _ | .writeClaim _ | .writeWait _ _ _ | .inTenure => { h with holdElapsed := true }
  | .none | .handedOver => h

/-- MINIMUM_HOLD_ELAPSED (R52). -/
def minimumHoldElapsed (s : State) : State := s.withHost s.host.holdOver

/-! ### The meanings -/

/-- HOST_READ (R45). -/
def execHostRead (a : WordAddr) (lanes : Lanes) (cycle : BitVec 10) (s : State) : Host.Outcome State Fault Refusal :=
  oneAtATime s (readTaken a lanes cycle s)

/-- HOST_WRITE (R2). -/
def execHostWrite (a : WordAddr) (data : Word) (lanes : Lanes) (s : State) : Host.Outcome State Fault Refusal :=
  oneAtATime s (writePresented ⟨a, data, lanes⟩ s)

/-- STATUS_WORD_WRITE (R171, R58): a host write at the word's address, carried to memory as a PLAIN write. -/
def execStatusWordWrite (k : Fin 32) (data : Word) (lanes : Lanes) (s : State) : Host.Outcome State Fault Refusal :=
  oneAtATime s (writePresented ⟨statusWordAddr s.pins.cps k, data, lanes⟩ s)

/-- HELD_WRITE_DECIDED_AFRESH (R24). -/
def execHeldWriteDecidedAfresh (s : State) : Host.Outcome State Fault Refusal := .next (heldWriteDecided s)
/-- HOST_READ_TENURE_END (R50). -/
def execHostReadTenureEnd (wake : Bool) (s : State) : Host.Outcome State Fault Refusal := .next (hostReadTenureEnd wake s)
/-- HOST_DIRECT_WRITE_TENURE_END (R11). -/
def execHostDirectWriteTenureEnd (wake : Bool) (s : State) : Host.Outcome State Fault Refusal :=
  .next (hostWriteTenureEnd wake s)
/-- RETIRE_TENURE_END (R40). -/
def execRetireTenureEnd (s : State) : Host.Outcome State Fault Refusal := .next (retireTenureEnd s)
/-- MOVER_STEP_END (R111). -/
def execMoverStepEnd (s : State) : Host.Outcome State Fault Refusal := .next (moverStepEnd s)
/-- MINIMUM_HOLD_ELAPSED (R52). -/
def execMinimumHoldElapsed (s : State) : Host.Outcome State Fault Refusal := .next (minimumHoldElapsed s)

end Sys2Proof.Machine
end

