-- ==== Sys2Proof/Machine/Reset.lean ====
section
/-! DEFINITION. Machine/Reset.lean: the pin reset and its release (R149), the power-on reset (R150), and the sampling of the straps
(R3, R134). -/

namespace Sys2Proof.Machine

/-! ### What a reset completes and cuts short (R8, R43, R54, R75, R118) -/

/-- Memory when a reset cuts the tenure in progress short: the port cycles it completed, and the one it cuts where that completes
(R75, R43, R118). -/
def cutTenureMem (cycle : BitVec 10) (cutCompletes : Bool) (s : State) : Memory :=
  match s.port.tenure with
  | none => s.mem
  | some t => applyOps s.mem ((tenureOps s t).take (cycle.toNat + if cutCompletes then 1 else 0))

/-- The write in the current tenure. -/
def Port.write (p : Port) : Option HostWrite :=
  match p.tenure with
  | some (.hostWrite w) => some w
  | some (.hostRead _ _ _ _) | some .retire | some (.lineFetch _ _) | some (.fillStep _) | some (.copyStep _) | none => none

/-- The word a read in the current tenure asked for. -/
def Port.readAddr (p : Port) : Option WordAddr :=
  match p.tenure with
  | some (.hostRead a _ _ _) => some a
  | some (.hostWrite _) | some .retire | some (.lineFetch _ _) | some (.fillStep _) | some (.copyStep _) | none => none

/-- The write the part holds with HWAIT, or has in its tenure (R8; for a taken write in its minimum hold, log 13). -/
def heldWrite (s : State) : Option HostWrite :=
  match s.host.access with
  | .writeHold w | .writeClaim w | .writeWait w _ _ => some w
  | .inTenure | .handedOver => s.port.write
  | .none | .readHold _ | .interventionHold _ | .readClaim _ _ => none

/-- The word of the memory read the part holds with HWAIT, or has in its tenure (R8, R54). -/
def heldRead (s : State) : Option WordAddr :=
  match s.host.access with
  | .readHold a | .readClaim a _ => some a
  | .inTenure | .handedOver => s.port.readAddr
  | .none | .interventionHold _ | .writeHold _ | .writeClaim _ | .writeWait _ _ _ => none

/-- The word of the intervention the part holds with HWAIT (R54). -/
def heldIntervention (s : State) : Option ControlWord :=
  match s.host.access with
  | .interventionHold c => some c
  | .none | .readHold _ | .writeHold _ | .readClaim _ _ | .writeClaim _ | .writeWait _ _ _ | .inTenure | .handedOver => none

/-- Memory after a reset: the held write is completed straight to it (R8). -/
def memAfterReset (cycle : BitVec 10) (cutCompletes : Bool) (s : State) : Memory :=
  match heldWrite s with
  | some w => writeMemory w (cutTenureMem cycle cutCompletes s)
  | none => cutTenureMem cycle cutCompletes s

/-- The word HD15–HD0 carry after a reset, in the reset state `r`: the held read is answered by memory at its own address, or by
intervention with the reset values (R8, R54). -/
def dataAfterReset (s r : State) : Word :=
  match heldRead s with
  | some a => Memory.readWord r.mem a
  | none => match heldIntervention s with
    | some c => interventionAnswer r c
    | none => s.host.data

/-! ### Reset states (R102, R118, R134, R135, R149, R168) -/

/-- The Scan Engine after a reset, with the base formed from the setup record (R102). -/
def resetScan (setup : Vector Word 17) : Scan :=
  { State.reset.scan with
    base := formBase (setup.get 6) (setup.get 7), walk := formBase (setup.get 6) (setup.get 7)
    stagedLo := setup.get 6, stagedHi := setup.get 7 }

/-- The Interposer Controller after a reset, with the setup record given (R168). -/
def resetCtl (setup : Vector Word 17) : Controller := { State.reset.ctl with setup := setup }

/-- Every block at its reset state, with memory, the setup record and the pins as given; the model's own fields (the command queue and
the free-value counter) are kept, and so is the word on HD. -/
def resetBlocks (m : Memory) (setup : Vector Word 17) (p : Pins) (s : State) : State where
  pending := s.pending
  mem := m
  queue := []
  host := ⟨.none, false, s.host.data⟩
  port := ⟨none, .hostNext⟩
  scan := resetScan setup
  panel := State.reset.panel
  mover := State.reset.mover
  clock := strapClock p.cks
  ctl := resetCtl setup
  pins := p
  free := s.free

/-- The pins while RESET# is asserted: the straps are sampled (R3, R134). -/
def Pins.inReset (p : Pins) : Pins := { p with reset := true, cps := p.cpsPins, cks := p.cksPins }

/-- RESET_ASSERTED (R149): held accesses are completed, the tenure is cut short, and every block goes to its reset state at once.  While
RESET# is asserted it cannot be asserted again (log 7).  DESIGN CHOICE: an intervention in its minimum hold is answered and released at once, with no
hold of an RCB clock left over (R8, R54 against R56, log 23). -/
def resetAsserted (cycle : BitVec 10) (cutCompletes : Bool) (s : State) : State :=
  if s.pins.reset then s
  else
    let r := resetBlocks (memAfterReset cycle cutCompletes s) s.ctl.setup s.pins.inReset s
    driveData (dataAfterReset s r) r

/-- The strap check begins where EXT is strapped (R134). -/
def beginStrapCheck (s : State) : State := s.withClock s.clock.beginStrapCheck

/-- RESET_RELEASED (R134, R149). -/
def resetReleased (s : State) : State :=
  if s.pins.reset then beginStrapCheck (s.withPins { s.pins with reset := false }) else s

/-- The pins at the end of a power-on reset: the straps are sampled during it (R150). -/
def powerOnPins (cps : BitVec 3) (cks : BitVec 2) (wake : Bool) : Pins := ⟨false, cps, cks, cps, cks, wake⟩

/-- POWER_ON_RESET (R150): as a pin reset leaves the part, with the setup record at its defaults.  Nothing exists before power-on, so nothing
is completed or cut short; memory is kept (log 14). -/
def powerOnReset (cps : BitVec 3) (cks : BitVec 2) (s : State) : State :=
  beginStrapCheck (driveData 0 (resetBlocks s.mem Config.setupDefaults (powerOnPins cps cks s.pins.wake) s))

/-- STRAP_SAMPLING (R3, R134): the strap pins change; while RESET# is asserted they are sampled, and the clock unit takes the strap
source. -/
def strapSampling (cps : BitVec 3) (cks : BitVec 2) (s : State) : State :=
  if s.pins.reset then
    (s.withPins { s.pins with cpsPins := cps, cksPins := cks, cps := cps, cks := cks }).withClock (strapClock cks)
  else s.withPins { s.pins with cpsPins := cps, cksPins := cks }

/-! ### The meanings -/

/-- RESET_ASSERTED (R149). -/
def execResetAsserted (cycle : BitVec 10) (cutCompletes : Bool) (s : State) : Host.Outcome State Fault Refusal :=
  .next (resetAsserted cycle cutCompletes s)
/-- RESET_RELEASED (R134). -/
def execResetReleased (s : State) : Host.Outcome State Fault Refusal := .next (resetReleased s)
/-- POWER_ON_RESET (R150). -/
def execPowerOnReset (cps : BitVec 3) (cks : BitVec 2) (s : State) : Host.Outcome State Fault Refusal :=
  .next (powerOnReset cps cks s)
/-- STRAP_SAMPLING (R3). -/
def execStrapSampling (cps : BitVec 3) (cks : BitVec 2) (s : State) : Host.Outcome State Fault Refusal :=
  .next (strapSampling cps cks s)

end Sys2Proof.Machine
end

