-- ==== Sys2Proof/Machine/Dispatch.lean ====
section
/-! DEFINITION. Machine/Dispatch.lean: the meaning of each command, one arm per constructor of `Instr`. -/

namespace Sys2Proof.Machine

/-- The effect of a command on everything but the queue of waiting commands. -/
def exec (i : Instr) (s : State) : Host.Outcome State Fault Refusal :=
  match i with
  | .hostRead a lanes cycle => Sys2Proof.Machine.execHostRead a lanes cycle s
  | .hostWrite a data lanes => Sys2Proof.Machine.execHostWrite a data lanes s
  | .heldWriteDecidedAfresh => Sys2Proof.Machine.execHeldWriteDecidedAfresh s
  | .hostReadTenureEnd wake => Sys2Proof.Machine.execHostReadTenureEnd wake s
  | .hostDirectWriteTenureEnd wake => Sys2Proof.Machine.execHostDirectWriteTenureEnd wake s
  | .retireTenureEnd => Sys2Proof.Machine.execRetireTenureEnd s
  | .lineFetchEnd => Sys2Proof.Machine.execLineFetchEnd s
  | .moverStepEnd => Sys2Proof.Machine.execMoverStepEnd s
  | .linePeriodBoundary wake => Sys2Proof.Machine.execLinePeriodBoundary wake s
  | .frameSyncArrival => Sys2Proof.Machine.execFrameSyncArrival s
  | .firstCut access => Sys2Proof.Machine.execFirstCut access s
  | .engage => Sys2Proof.Machine.execEngage s
  | .disengage => Sys2Proof.Machine.execDisengage s
  | .quiesce => Sys2Proof.Machine.execQuiesce s
  | .resume => Sys2Proof.Machine.execResume s
  | .commit => Sys2Proof.Machine.execCommit s
  | .fill => Sys2Proof.Machine.execFill s
  | .copy => Sys2Proof.Machine.execCopy s
  | .movestop => Sys2Proof.Machine.execMovestop s
  | .clksel => Sys2Proof.Machine.execClksel s
  | .ack => Sys2Proof.Machine.execAck s
  | .setptr => Sys2Proof.Machine.execSetptr s
  | .unknownCommand code => Sys2Proof.Machine.execUnknownCommand code s
  | .malformedCommand data lanes => Sys2Proof.Machine.execMalformedCommand data lanes s
  | .argumentWrite n data lanes => Sys2Proof.Machine.execArgumentWrite n data lanes s
  | .setupPortWrite data lanes => Sys2Proof.Machine.execSetupPortWrite data lanes s
  | .statusWordWrite k data lanes => Sys2Proof.Machine.execStatusWordWrite k data lanes s
  | .wakeArrival => Sys2Proof.Machine.execWakeArrival s
  | .lossOfXclk => Sys2Proof.Machine.execLossOfXclk s
  | .xclkContinuityReady => Sys2Proof.Machine.execXclkContinuityReady s
  | .multiplierLocked => Sys2Proof.Machine.execMultiplierLocked s
  | .readinessTimeout => Sys2Proof.Machine.execReadinessTimeout s
  | .resetAsserted cycle cutCompletes => Sys2Proof.Machine.execResetAsserted cycle cutCompletes s
  | .resetReleased => Sys2Proof.Machine.execResetReleased s
  | .powerOnReset cps cks => Sys2Proof.Machine.execPowerOnReset cps cks s
  | .minimumHoldElapsed => Sys2Proof.Machine.execMinimumHoldElapsed s
  | .preemptedFetchCycleEnd => Sys2Proof.Machine.execPreemptedFetchCycleEnd s
  | .panelPortLineSequence clock half => Sys2Proof.Machine.execPanelPortLineSequence clock half s
  | .strapSampling cps cks => Sys2Proof.Machine.execStrapSampling cps cks s

end Sys2Proof.Machine
end

