-- ==== Sys2Proof/Safety.lean ====
section
/-! DEFINITION. Safety.lean: what holds of every state of the part between two commands (the invariants that rules R17 to R20, R33, R36,
R38, R61, R74, R80, R87, R103, R119, R125 and R131 state), and the newest value of a byte (R45, R53). -/

namespace Sys2Proof.Machine

/-! ### The queue (Section 2) -/

/-- Two entries, the first older: of different blocks, or of one block with the older ahead in the order RETIRING, PENDING, OPEN; a DIRECT
entry stands alone in its block (R20). -/
def inAgeOrder (older younger : Entry) : Prop :=
  older.block = younger.block →
    (older.gen = .retiring ∧ (younger.gen = .pending ∨ younger.gen = .opn)) ∨ (older.gen = .pending ∧ younger.gen = .opn)

/-- An entry has sixteen byte positions and at least one valid byte, and a WRITING entry is DIRECT or RETIRING (R17, R38). -/
def Entry.sound (e : Entry) : Prop :=
  e.bytes.length = 16 ∧ e.bytes.any Option.isSome = true ∧
    (e.state = .writing → e.gen = .direct ∨ e.gen = .retiring)

/-- The queue holds at most 64 entries, sound, in age order, at most one of them WRITING (R17 to R20, R38). -/
def QueueSound (q : List Entry) : Prop :=
  q.length ≤ Config.queueDepth ∧ (∀ e ∈ q, e.sound) ∧ q.Pairwise inAgeOrder ∧ (q.filter Entry.isWriting).length ≤ 1

/-- The generation that writes to a block receive (R10): all eight words of a block have one class (R5). -/
def blockGeneration (s : State) (b : BlockNo) : Generation := writeGeneration s (blockWord b 0)

/-- A block's entries are DIRECT exactly when its writes receive DIRECT (R20), the WRITING entry is not blocked (R36, R37), and PENDING
entries exist in COMMIT mode only (R31). -/
def EntriesPlaced (s : State) : Prop :=
  ∀ e ∈ s.queue, (e.gen = .direct ↔ blockGeneration s e.block = .direct) ∧ (e.state = .writing → blocked s.mover e = false) ∧
    (e.gen = .pending → s.ctl.mode.sharing = .commit)

/-! ### The port (Section 4) -/

/-- The access is served by the current tenure. -/
def HostAccess.served : HostAccess → Bool
  | .inTenure | .handedOver => true
  | .none | .readHold _ | .interventionHold _ | .writeHold _ | .readClaim _ _ | .writeClaim _ | .writeWait _ _ _ => false

/-- The tenure serves the host. -/
def Tenure.isHost : Tenure → Bool
  | .hostRead _ _ _ _ | .hostWrite _ => true
  | .retire | .lineFetch _ _ | .fillStep _ | .copyStep _ => false

/-- The tenure serves the queue. -/
def Tenure.isRetire : Tenure → Bool
  | .retire => true
  | .hostRead _ _ _ _ | .hostWrite _ | .lineFetch _ _ | .fillStep _ | .copyStep _ => false

/-- The tenure agrees with the block it serves: a host tenure with the host's access, a retire tenure with the WRITING entry, a mover step
with the mover record (R60, R62, R109, R110). -/
def PortSound (s : State) : Prop :=
  s.port.tenure.any Tenure.isHost = s.host.access.served ∧
  s.port.tenure.any Tenure.isRetire = s.queue.any Entry.isWriting ∧
  match s.port.tenure with
  | some (.fillStep k) => s.mover.active = true ∧ s.mover.kind = .fill ∧ 0 < k ∧ k ≤ 8 ∧ k ≤ s.mover.remaining
  | some (.copyStep k) => s.mover.active = true ∧ s.mover.kind = .copy ∧ 0 < k ∧ k ≤ 4 ∧ k ≤ s.mover.remaining
  | some (.hostRead _ _ _ _) | some (.hostWrite _) | some .retire | some (.lineFetch _ _) | none => True

/-- The mover has written no more words than its length; it is ACTIVE only with words left to write and with ranges that lie within memory
(R103, R106, R114). -/
def MoverSound (m : Mover) : Prop :=
  m.done.toNat ≤ m.length.toNat ∧
    (m.active = true → m.done.toNat < m.length.toNat ∧ m.dst.toNat + m.length.toNat ≤ 0x100000 ∧
      (m.kind = .copy → m.src.toNat + m.length.toNat ≤ 0x100000))

/-! ### The phases of the part (Sections 5 and 8) -/

/-- PASSIVE, STARTING and DORMANT: the host path is pass-through (R7). -/
def IState.passThrough : IState → Bool
  | .passive | .starting | .dormant => true
  | .running | .draining _ _ => false

/-- Nothing is in the queue, in the mover, in the scan or on the port, and no access waits (R19, R74, R76, R119). -/
def Quiet (s : State) : Prop :=
  s.queue = [] ∧ s.mover.active = false ∧ s.scan.state = .off ∧ s.port.tenure = none ∧ s.scan.fetchDue = none ∧
    s.host.access.busy = false

/-- No OPEN and no PENDING entry is left, and no line fetch is due or in progress (R35, R87). -/
def AfterDrainCut (s : State) : Prop :=
  (∀ e ∈ s.queue, e.gen = .direct ∨ e.gen = .retiring) ∧ fetchOutstanding s = false ∧
    (s.scan.state = .off ∨ (s.scan.state = .gap ∧ s.scan.sub = .extend))

/-- The drain has ended and a last host tenure is to come: the queue is empty, the mover IDLE, and no write waits on a block (R73). -/
def DrainOver (s : State) : Prop := s.queue = [] ∧ s.mover.active = false ∧ ∀ w why due, s.host.access ≠ .writeWait w why due

/-- What the interposer state says of the other blocks (R19, R33, R74, R76, R80, R87, R119, R138, R149). -/
def PhaseSound (s : State) : Prop :=
  (s.pins.reset = true → s.ctl.istate = .passive) ∧
  (s.ctl.istate.passThrough = true → Quiet s) ∧
  (s.ctl.istate.passThrough = false → s.ctl.istate.afterDrainCut = false → s.scan.state ≠ .off) ∧
  (s.ctl.istate.afterDrainCut = true → AfterDrainCut s) ∧
  (s.ctl.istate.afterDrainCut = true → s.scan.state = .off → DrainOver s) ∧
  (s.scan.state = .showing ∨ (s.scan.state = .gap ∧ s.scan.sub = .leadIn) → hasGen s.queue .retiring = false)

/-- What holds of the queue, the port, the mover and the scan between two commands. -/
def PartSound (s : State) : Prop :=
  QueueSound s.queue ∧ EntriesPlaced s ∧ PortSound s ∧ MoverSound s.mover ∧ PhaseSound s

/-! ### The clock (Section 7) -/

/-- No pending switch has an external target. -/
def Clock.noExternalSwitch (c : Clock) : Prop := ∀ p, c.switch = some p → p.target.external = false

/-- While CLKFAIL is set the current source is internal (R131) and no switch to an external source is pending (R123, R132); no switch is pending
while the current source is CHECKING (R123) or the part is DORMANT or drains toward it (R125); while RESET# is asserted the part is
PASSIVE, CLKFAIL is clear and the readiness timer is stopped (R134, R149). -/
def ClockSound (s : State) : Prop :=
  (eventSet s.ctl.events .clkFail = true → s.clock.source.external = false ∧ s.clock.noExternalSwitch) ∧
  (s.clock.isChecking = true → s.clock.switch = none) ∧
  (s.ctl.istate = .dormant ∨ (∃ after, s.ctl.istate = .draining .dormant after) → s.clock.switch = none) ∧
  (s.pins.reset = true →
    s.ctl.istate = .passive ∧ eventSet s.ctl.events .clkFail = false ∧ s.clock.timer = none)

/-! ### The newest value of a byte (R45 to R48, R53) -/

/-- The byte a source gives: the byte supplied, or the memory byte of the same lane of the word the read chooses (R45 to R48, R50). -/
def resolvedByte (s : State) (a : WordAddr) (odd : Bool) : Byte :=
  match laneSource s a odd with
  | .queue b | .fillPattern b => b
  | .copySource => Memory.readByte s.mem (laneAddr (copySourceWord s.mover a) + if odd then 1 else 0)
  | .memory => Memory.readByte s.mem (laneAddr a + if odd then 1 else 0)

end Sys2Proof.Machine
end

