-- ==== Sys2Proof/Certificates/Slice0/Obligations.lean ====
section
/-! DEFINITION. Certificates/Slice0/Obligations.lean: the statements for the provers.  In them `settle` is the arbiter's grant (stated
by `PortGrantsInOrder`), `noteWait` the end of a held write's wait (stated by `HeldWriteIsDecidedAfresh`), `recordCommand` the command record
(stated by `EveryCommandWriteIsRecorded`) and `controlTaken` the decoding of a taken write (stated by `TakenWritesAreDecoded`). -/

section
open Sys2Proof Sys2Proof.Machine

/-! ### The step and the reset state -/

/-- A step runs the command at the front of the queue on the state with the queue's rest. -/
def Obligations.StepRunsTheFrontCommand : Prop :=
  ∀ (c : Instr) (rest : List Instr) (s : State), step (s.withPending (c :: rest)) = exec c (s.withPending rest)

/-- POWER_ON_RESET in every state: every block at its reset value, the setup record at its defaults, the straps sampled, PASSIVE
(R9, R44, R75, R90, R97, R102, R118, R135, R150, R158, R168).  Memory is kept and RESET# is deasserted: the model's choice (log 14). -/
def Obligations.PowerOnResetLeaves : Prop :=
  ∀ (s : State) (cps : BitVec 3) (cks : BitVec 2), ∃ t, exec (.powerOnReset cps cks) s = .next t ∧
    t.pending = s.pending ∧ t.mem = s.mem ∧ t.queue = [] ∧ t.host.access = .none ∧ t.port = ⟨none, .hostNext⟩ ∧
    t.scan =
      { state := .off, sub := .count, timer := 0, line := 0, gapCount := 0, ext := 0, frames := 0, base := 0
        stagedLo := 0, stagedHi := 0, stagedReady := false, walk := 0, bufA := ⟨0, .dark, [], .empty, false, false⟩
        bufB := ⟨0, .dark, [], .empty, false, false⟩, syncSeen := false, fetchDue := none } ∧
    t.panel = ⟨0, false, false, 0, false, false⟩ ∧ t.mover = ⟨false, .fill, .up, 0, 0, 0, 0, 0, false⟩ ∧
    t.clock =
      ⟨if cks = 0 then .rcb else if cks = 1 then .rcf else if cks = 2 then .ext else .rcs,
       if cks = 2 then .checking .strap else .ready, none, ⟨.off, .rcf, 0⟩, if cks = 2 then some 0 else none⟩ ∧
    t.ctl =
      { istate := .passive, mode := ⟨.direct, false, .none⟩
        setup := #v[0x0001, 32, 64, 512, 2, 16, 0, 0, 0, 0, 0, 0, 0, 0, 0, 0, 0], ptr := 0, setupFault := none
        args := #v[0, 0, 0, 0, 0, 0], lastCode := 0, lastResult := .none, count := 0, events := 0 } ∧
    t.pins = ⟨false, cps, cks, cps, cks, s.pins.wake⟩

/-- The state right after reset is the one that a power-on reset leaves, and the invariants hold in it. -/
def Obligations.ResetStateIsSound : Prop :=
  exec (.powerOnReset Config.resetCps Config.resetCks) State.reset = .next State.reset ∧
    PartSound State.reset ∧ ClockSound State.reset ∧ Memory.wf State.reset.mem = true

/-! ### Section 1: classes, pass-through and the treatment of writes -/

/-- In pass-through a read that is no intervention is answered by memory, without HWAIT (R1, R7); a write reaches memory in its enabled lanes
and nowhere else, and is then decoded (R2, R7, R8, R170).  A pass-through access is one step (the model's choice, log 16).  The memory-side pins
follow the host's, MD is joined to HD in a write, and MCS# and MRD# are deasserted for a read answered by intervention (R7, R55, R74). -/
def Obligations.PassThroughReachesMemory : Prop :=
  (∀ (s : State) (a : WordAddr) (lanes : Lanes) (cycle : BitVec 10),
     sharing s = false → s.host.access.busy = false → (controlWord s.pins.cps a).any intervened = false →
     exec (.hostRead a lanes cycle) s =
       .next (s.withHost ⟨.none, false, mkWord (Memory.readByte s.mem (2 * a.toNat)) (Memory.readByte s.mem (2 * a.toNat + 1))⟩)) ∧
  (∀ (s : State) (a : WordAddr) (data : Word) (lanes : Lanes),
     sharing s = false → s.host.access.busy = false → Memory.wf s.mem = true →
     ∃ m, exec (.hostWrite a data lanes) s =
         .next (controlTaken ⟨a, data, lanes⟩ ((s.withMem m).withHost ⟨.none, false, s.host.data⟩)) ∧
       ∀ b, Memory.readByte m b =
         if b = 2 * a.toNat ∧ lanes.lane0 then data.extractLsb' 0 8
         else if b = 2 * a.toNat + 1 ∧ lanes.lane1 then data.extractLsb' 8 8
         else Memory.readByte s.mem b) ∧
  (∀ (s : State) (h : HostPins) (n : Nat), sharing s = false →
     let intervention := (controlWord s.pins.cps h.ha).any intervened = true ∨ ∃ c, s.host.access = .interventionHold c
     ∃ p, memPins s h n = some p ∧ p.ma = some h.ha ∧ p.mwr = h.hwr ∧ p.mbe = h.hbe ∧
       (p.mcs = true ↔ h.hcs = true ∧ ¬ (h.hrd = true ∧ intervention)) ∧
       (p.mrd = true ↔ h.hrd = true ∧ ¬ (h.hcs = true ∧ intervention)) ∧
       (h.hcs = true → h.hwr = true → p.md = ⟨true, some (h.hd.extractLsb' 0 8), some (h.hd.extractLsb' 8 8)⟩) ∧
       (h.hcs = false ∨ h.hwr = false → p.md = ⟨false, none, none⟩))

/-- The decoding of a taken write (R3, R8, R151): nothing while RESET# is asserted or outside the decoded words of the control page; COMMAND,
the argument words and the setup port otherwise.  The words of the control page, by the CPS straps as last sampled (R3, R55): COMMAND, ARG0 to ARG5,
the setup port and the status words stand at their offsets from its base, and it ends with its 2048th word. -/
def Obligations.TakenWritesAreDecoded : Prop :=
  (∀ (cps : BitVec 3) (a : WordAddr),
    let page := 0xFC000 + cps.toNat * 0x800
    (controlWord cps a = some .command ↔ a.toNat = page) ∧
    (∀ n : Fin 6, controlWord cps a = some (.arg n) ↔ a.toNat = page + 1 + n.val) ∧
    (controlWord cps a = some .setupPort ↔ a.toNat = page + 8) ∧
    (∀ k : Fin 32, controlWord cps a = some (.status k) ↔ a.toNat = page + 0x80 + k.val) ∧
    (controlWord cps a = none ↔ a.toNat < page ∨ page + 0x800 ≤ a.toNat)) ∧
  ∀ (s : State) (w : HostWrite),
    (s.pins.reset = true → controlTaken w s = s) ∧
    (s.pins.reset = false → controlWord s.pins.cps w.addr = some .command →
      Host.Outcome.next (controlTaken w s) =
        if w.lanes.lane0 && w.lanes.lane1 then
          (if w.data = 0x5301 then exec .engage s else if w.data = 0x5302 then exec .disengage s
           else if w.data = 0x5303 then exec .quiesce s else if w.data = 0x5304 then exec .resume s
           else if w.data = 0x5310 then exec .commit s else if w.data = 0x5320 then .next (fill s)
           else if w.data = 0x5321 then .next (copy s) else if w.data = 0x5322 then .next (movestop s)
           else if w.data = 0x5330 then exec .clksel s else if w.data = 0x5340 then exec .ack s
           else if w.data = 0x5341 then exec .setptr s else exec (.unknownCommand w.data) s)
        else exec (.malformedCommand w.data w.lanes) s) ∧
    (s.pins.reset = false → ∀ n, controlWord s.pins.cps w.addr = some (.arg n) →
      Host.Outcome.next (controlTaken w s) = exec (.argumentWrite n w.data w.lanes) s) ∧
    (s.pins.reset = false → controlWord s.pins.cps w.addr = some .setupPort →
      Host.Outcome.next (controlTaken w s) = exec (.setupPortWrite w.data w.lanes) s) ∧
    (∀ k, controlWord s.pins.cps w.addr = some (.status k) → controlTaken w s = s) ∧
    (controlWord s.pins.cps w.addr = some .other → controlTaken w s = s) ∧
    (controlWord s.pins.cps w.addr = none → controlTaken w s = s)

/-- A write that is to be posted, finds no entry of its block and generation, cannot take a direct tenure and finds a free entry is posted as
a new HELD entry at the young end, and taken (R12, R13, R14, R21).  The class of a write, CONTROL in the control page, else DISPLAY in an enabled
window, else PLAIN (R3 to R5), and its generation: OPEN for a DISPLAY write in FRAME or COMMIT mode, DIRECT otherwise (R10). -/
def Obligations.PostedWriteTakesANewEntry : Prop :=
  (∀ (s : State) (a : WordAddr),
    let f := fun i : Fin 17 => (s.ctl.setup.get i).toNat
    let control := 0xFC000 + s.pins.cps.toNat * 0x800 ≤ a.toNat ∧ a.toNat < 0xFC800 + s.pins.cps.toNat * 0x800
    let window := fun i j : Fin 17 => 0x8000 ≤ f i ∧ f i % 0x2000 ≤ a.toNat / 128 ∧ a.toNat / 128 ≤ f j % 0x2000
    let display := ¬ control ∧ (window 8 9 ∨ window 10 11 ∨ window 12 13 ∨ window 14 15)
    (classify s a = .control ↔ control) ∧ (classify s a = .display ↔ display) ∧
    (classify s a = .plain ↔ ¬ control ∧ ¬ display) ∧
    (writeGeneration s a = .opn ↔ display ∧ s.ctl.mode.sharing ≠ .direct) ∧
    (writeGeneration s a = .direct ↔ ¬ (display ∧ s.ctl.mode.sharing ≠ .direct))) ∧
  ∀ (s : State) (a : WordAddr) (data : Word) (lanes : Lanes),
    sharing s = true → s.host.access.busy = false → s.ctl.istate.afterDrainCut = false → lanes.empty = false →
    findEntry s.queue (blockOf a) (writeGeneration s a) = none → mayGoDirect s a = false → s.queue.length < 64 →
    ∃ bytes, exec (.hostWrite a data lanes) s =
        .next (settle (controlTaken ⟨a, data, lanes⟩
          ((s.withQueue (s.queue ++ [⟨blockOf a, bytes, writeGeneration s a, .held⟩])).withHost
            ⟨.writeHold ⟨a, data, lanes⟩, false, s.host.data⟩))) ∧
      bytes.length = 16 ∧
      ∀ k, k < 16 → bytes[k]? = some
        (if k = 2 * (a.toNat % 8) ∧ lanes.lane0 then some (data.extractLsb' 0 8)
         else if k = 2 * (a.toNat % 8) + 1 ∧ lanes.lane1 then some (data.extractLsb' 8 8) else none)

/-- A write that is to be posted and finds a HELD entry of its block and generation merges into it and is taken, the queue full or not: the
entry keeps its place, generation and state, and takes the enabled bytes (R22). -/
def Obligations.MergedWriteReplacesItsBytes : Prop :=
  ∀ (s : State) (a : WordAddr) (data : Word) (lanes : Lanes) (older younger : List Entry) (e : Entry),
    sharing s = true → s.host.access.busy = false → s.ctl.istate.afterDrainCut = false → lanes.empty = false →
    s.queue = older ++ e :: younger → QueueSound s.queue → e.block = blockOf a → e.gen = writeGeneration s a → e.state = .held →
    ∃ bytes, exec (.hostWrite a data lanes) s =
        .next (settle (controlTaken ⟨a, data, lanes⟩
          ((s.withQueue (older ++ { e with bytes := bytes } :: younger)).withHost
            ⟨.writeHold ⟨a, data, lanes⟩, false, s.host.data⟩))) ∧
      bytes.length = 16 ∧
      ∀ k, k < 16 → bytes[k]? = some
        (if k = 2 * (a.toNat % 8) ∧ lanes.lane0 then some (data.extractLsb' 0 8)
         else if k = 2 * (a.toNat % 8) + 1 ∧ lanes.lane1 then some (data.extractLsb' 8 8) else e.byteAt k)

/-- A write of the direct treatment whose block has no entry, at a free port, is granted its direct tenure at once, and the toggle becomes
QUEUE_NEXT (R11, R63, R65); so does a held write decided afresh.  A write may go direct exactly when it receives DIRECT, no word of its block lies in
an unfinished range (R6, R14), the queue holds no entry of its block, no tenure is in progress and no claimant waits (R11, R37, R60, R61). -/
def Obligations.DirectWriteTakesTheFreePort : Prop :=
  (∀ (s : State) (a : WordAddr), mayGoDirect s a = true ↔
    writeGeneration s a = .direct ∧
    (∀ x, x / 8 = a.toNat / 8 → (destRange s.mover).has x = false ∧ (srcRange s.mover).has x = false) ∧
    (∀ e ∈ s.queue, e.block.toNat ≠ a.toNat / 8) ∧ s.port.tenure = none ∧ s.scan.fetchDue = none ∧
    (∀ b lanes, s.host.access ≠ .readClaim b lanes) ∧ (∀ v, s.host.access ≠ .writeClaim v) ∧
    ((∃ e ∈ s.queue, (e.gen = .direct ∨ e.gen = .retiring) ∧ e.state = .held ∧ blocked s.mover e = false) →
      ∃ e ∈ s.queue, e.state = .writing) ∧
    (s.mover.active = true → s.mover.length.toNat ≤ s.mover.done.toNat)) ∧
  ∀ (s : State) (w : HostWrite), sharing s = true → s.ctl.istate.afterDrainCut = false → w.lanes.empty = false →
    mayGoDirect s w.addr = true →
    (s.host.access.busy = false →
      exec (.hostWrite w.addr w.data w.lanes) s =
        .next ((s.withPort ⟨some (.hostWrite w), .queueNext⟩).withHost ⟨.inTenure, false, s.host.data⟩)) ∧
    (∀ why, s.host.access = .writeWait w why true →
      exec .heldWriteDecidedAfresh s =
        .next ((s.withPort ⟨some (.hostWrite w), .queueNext⟩).withHost { s.host with access := .inTenure }))

/-- The writes that wait: for the WRITING entry they would merge into, for an entry of a full queue with no spill, and after the drain cut for
their block; a waiting write is no claimant and changes nothing else (R15, R23, R24).  After the drain cut a write whose block is clear claims a
direct tenure (R15).  A write with neither byte enable is taken at once and changes no memory byte and no entry (R2). -/
def Obligations.WritesThatWaitDrainOrAreEmpty : Prop :=
  (∀ (s : State) (a : WordAddr) (data : Word) (lanes : Lanes),
     sharing s = true → s.host.access.busy = false → lanes.empty = false →
     (s.ctl.istate.afterDrainCut = false → ∀ e, findEntry s.queue (blockOf a) (writeGeneration s a) = some e → e.state = .writing →
       exec (.hostWrite a data lanes) s =
         .next (settle (s.withHost ⟨.writeWait ⟨a, data, lanes⟩ .writingEnds false, false, s.host.data⟩))) ∧
     (s.ctl.istate.afterDrainCut = false → findEntry s.queue (blockOf a) (writeGeneration s a) = none →
       mayGoDirect s a = false → 64 ≤ s.queue.length →
       (s.ctl.mode.sharing = .commit → hasGen s.queue .opn = false) →
       exec (.hostWrite a data lanes) s =
         .next (settle (s.withHost ⟨.writeWait ⟨a, data, lanes⟩ .entryLeaves false, false, s.host.data⟩))) ∧
     (s.ctl.istate.afterDrainCut = true → blockClear s (blockOf a) = false →
       exec (.hostWrite a data lanes) s =
         .next (settle (s.withHost ⟨.writeWait ⟨a, data, lanes⟩ .blockClears false, false, s.host.data⟩)))) ∧
  (∀ (s : State) (a : WordAddr) (data : Word) (lanes : Lanes), sharing s = true → s.host.access.busy = false →
     (lanes.empty = false → s.ctl.istate.afterDrainCut = true → blockClear s (blockOf a) = true →
       exec (.hostWrite a data lanes) s =
         .next (settle (s.withHost ⟨.writeClaim ⟨a, data, lanes⟩, false, s.host.data⟩))) ∧
     (lanes.empty = true →
       exec (.hostWrite a data lanes) s =
         .next (settle (controlTaken ⟨a, data, lanes⟩ (s.withHost ⟨.writeHold ⟨a, data, lanes⟩, false, s.host.data⟩)))))

/-- In COMMIT mode a write of any class, mover-hit or not, that can neither merge nor go direct and finds the queue full with an OPEN entry makes a
spill, which raises SPILL and changes no command record, and is decided afresh at once: if the spill freed an entry it is posted with its
generation, otherwise it waits until an entry leaves (R13, R14, R27, R28).  So does a held write decided afresh, HWAIT released where its minimum
hold has elapsed (R2, R24). -/
def Obligations.SpillFreesRoomOrTheWriteWaits : Prop :=
  ∀ (s : State) (w : HostWrite),
    sharing s = true → s.ctl.istate.afterDrainCut = false → w.lanes.empty = false →
    s.ctl.mode.sharing = .commit → 64 ≤ s.queue.length → findEntry s.queue (blockOf w.addr) (writeGeneration s w.addr) = none →
    mayGoDirect s w.addr = false → hasGen s.queue .opn = true →
    let spilled := (s.withQueue (commitQueue s.queue)).withCtl { s.ctl with events := s.ctl.events ||| 4 }
    let posted := commitQueue s.queue ++ [newEntry w (writeGeneration s w.addr)]
    (s.host.access.busy = false →
      ((commitQueue s.queue).length < 64 → exec (.hostWrite w.addr w.data w.lanes) s =
        .next (settle (controlTaken w ((spilled.withQueue posted).withHost ⟨.writeHold w, false, s.host.data⟩)))) ∧
      (64 ≤ (commitQueue s.queue).length → exec (.hostWrite w.addr w.data w.lanes) s =
        .next (settle (spilled.withHost ⟨.writeWait w .entryLeaves false, false, s.host.data⟩)))) ∧
    (∀ why, s.host.access = .writeWait w why true →
      ((commitQueue s.queue).length < 64 → exec .heldWriteDecidedAfresh s =
        .next (settle (controlTaken w ((spilled.withQueue posted).withHost
          { s.host with access := if s.host.holdElapsed then .none else .writeHold w })))) ∧
      (64 ≤ (commitQueue s.queue).length → exec .heldWriteDecidedAfresh s =
        .next (settle (spilled.withHost { s.host with access := .writeWait w .entryLeaves false }))))

/-- HELD_WRITE_DECIDED_AFRESH: a held write whose wait has ended is decided against the state as it stands; finding a free entry and no
entry of its block and generation, it is posted; finding a HELD entry of them, it merges, the queue full or not; HWAIT is released when the minimum
hold has elapsed; after the drain cut, its block clear, it claims a direct tenure; a write that is not due stays held (R2, R15, R22, R24).  It waits
again where its entry is WRITING, where the queue is full and no spill is made, and after the drain cut where its block is not clear (R15, R23, R24).
A held write becomes due when an entry leaves, when the retire tenure it waits for ends, or when its block is clear, and nothing else changes (R15,
R23, R24). -/
def Obligations.HeldWriteIsDecidedAfresh : Prop :=
  (∀ (s : State) (w : HostWrite) (why : WaitFor),
     (s.host.access = .writeWait w why true → s.ctl.istate.afterDrainCut = false → w.lanes.empty = false →
       findEntry s.queue (blockOf w.addr) (writeGeneration s w.addr) = none → mayGoDirect s w.addr = false → s.queue.length < 64 →
       exec .heldWriteDecidedAfresh s =
         .next (settle (controlTaken w
           ((s.withQueue (s.queue ++ [newEntry w (writeGeneration s w.addr)])).withHost
             { s.host with access := if s.host.holdElapsed then .none else .writeHold w })))) ∧
     (s.host.access = .writeWait w why true → s.ctl.istate.afterDrainCut = true → w.lanes.empty = false →
       blockClear s (blockOf w.addr) = true →
       exec .heldWriteDecidedAfresh s = .next (settle (s.withHost { s.host with access := .writeClaim w }))) ∧
     (s.host.access = .writeWait w why true → s.ctl.istate.afterDrainCut = false → w.lanes.empty = false → QueueSound s.queue →
       ∀ older e younger, s.queue = older ++ e :: younger → e.block = blockOf w.addr → e.gen = writeGeneration s w.addr →
         (e.state = .held → ∃ bytes, exec .heldWriteDecidedAfresh s =
             .next (settle (controlTaken w ((s.withQueue (older ++ { e with bytes := bytes } :: younger)).withHost
               { s.host with access := if s.host.holdElapsed then .none else .writeHold w }))) ∧
           bytes.length = 16 ∧
           ∀ k, k < 16 → bytes[k]? = some
             (if k = 2 * (w.addr.toNat % 8) ∧ w.lanes.lane0 then some (w.data.extractLsb' 0 8)
              else if k = 2 * (w.addr.toNat % 8) + 1 ∧ w.lanes.lane1 then some (w.data.extractLsb' 8 8) else e.byteAt k)) ∧
         (e.state = .writing → exec .heldWriteDecidedAfresh s =
           .next (settle (s.withHost { s.host with access := .writeWait w .writingEnds false })))) ∧
     (s.host.access = .writeWait w why true → s.ctl.istate.afterDrainCut = false → w.lanes.empty = false →
       findEntry s.queue (blockOf w.addr) (writeGeneration s w.addr) = none → mayGoDirect s w.addr = false → 64 ≤ s.queue.length →
       (s.ctl.mode.sharing = .commit → hasGen s.queue .opn = false) →
       exec .heldWriteDecidedAfresh s = .next (settle (s.withHost { s.host with access := .writeWait w .entryLeaves false }))) ∧
     (s.host.access = .writeWait w why true → s.ctl.istate.afterDrainCut = true → w.lanes.empty = false →
       blockClear s (blockOf w.addr) = false →
       exec .heldWriteDecidedAfresh s = .next (settle (s.withHost { s.host with access := .writeWait w .blockClears false }))) ∧
     (s.host.access = .writeWait w why false → exec .heldWriteDecidedAfresh s = .next s)) ∧
  (∀ (s : State) (left retired : Bool),
     (∀ w due, s.host.access = .writeWait w .entryLeaves due →
       noteWait left retired s = s.withHost { s.host with access := .writeWait w .entryLeaves (due || left) }) ∧
     (∀ w due, s.host.access = .writeWait w .writingEnds due →
       noteWait left retired s = s.withHost { s.host with access := .writeWait w .writingEnds (due || retired) }) ∧
     (∀ w due, s.host.access = .writeWait w .blockClears due →
       noteWait left retired s = s.withHost { s.host with access := .writeWait w .blockClears (due ||
         (!(s.queue.any fun e => e.block == blockOf w.addr) && !moverMeets s.mover (blockOf w.addr))) }) ∧
     ((∀ w why due, s.host.access ≠ .writeWait w why due) → noteWait left retired s = s))

/-- HOST_DIRECT_WRITE_TENURE_END: the write is in memory, HWAIT is released, the write is taken and decoded, and the port falls free; where the
drain has ended the pass-through path opens instead (R11, R62, R73).  The model applies a tenure's accesses at its end (log 10).  The orders inside this
instant are the model's choice: the write is decoded in DRAINING before the path opens, where R144 allows either order (log 9), and before the
arbiter's choice, where R64 and R116 allow either (log 22). -/
def Obligations.DirectWriteTenureEnds : Prop :=
  ∀ (s : State) (w : HostWrite) (wake : Bool), s.port.tenure = some (.hostWrite w) →
    let taken := controlTaken w
      (((s.withMem (Memory.writeLanes s.mem w.addr (laneByte0 w.data w.lanes) (laneByte1 w.data w.lanes))).withHost
        { s.host with access := .none }).withPort { s.port with tenure := none })
    exec (.hostDirectWriteTenureEnd wake) s =
      .next (if s.ctl.istate.afterDrainCut = true ∧ s.scan.state = .off then openPath wake taken else settle taken)

/-! ### Section 3: reads -/

/-- A read of the setup port or a status word is answered by intervention in every state: HD carries the field at the pointer or the status
word, HWAIT is held for the minimum, and nothing else changes (R55 to R58, R171).  The layout of every status word (10.6, R42, R164, R171). -/
def Obligations.InterventionAnswersReads : Prop :=
  (∀ (s : State) (a : WordAddr) (lanes : Lanes) (cycle : BitVec 10), s.host.access.busy = false →
    (controlWord s.pins.cps a = some .setupPort →
      exec (.hostRead a lanes cycle) s =
        .next (s.withHost ⟨.interventionHold .setupPort, false, s.ctl.setup.get s.ctl.ptr⟩)) ∧
    (∀ k, controlWord s.pins.cps a = some (.status k) →
      exec (.hostRead a lanes cycle) s = .next (s.withHost ⟨.interventionHold (.status k), false, statusWord s k⟩))) ∧
  (∀ s : State,
    let word := fun k : Fin 32 => (statusWord s k).toNat
    let entries := fun g : Generation => BitVec.ofNat 16 (s.queue.countP fun e => e.gen = g)
    word 0 = (match s.ctl.istate with
      | .passive => 0 | .starting => 1 | .running => 2 | .draining .dormant _ => 3 + 0x100 | .draining .passive _ => 3 + 0x200
      | .dormant => 4) ∧
    word 1 = (match s.ctl.mode.sharing with | .direct => 1 | .frame => 2 | .commit => 3) +
      (if s.ctl.mode.preempt then 0x10 else 0) +
      (match s.ctl.mode.role with | .none => 0 | .leader => 0x100 | .follower => 0x200) ∧
    statusWord s 2 = s.scan.frames ∧
    word 3 = (if s.scan.state = .showing then s.scan.line.toNat else 0xFFFF) ∧ statusWord s 4 = s.scan.ext ∧
    statusWord s 5 = BitVec.ofNat 16 s.queue.length ∧ statusWord s 6 = entries .direct ∧ statusWord s 7 = entries .opn ∧
    statusWord s 8 = entries .pending ∧ statusWord s 9 = entries .retiring ∧
    word 10 = s.ctl.events.toNat ∧ statusWord s 11 = s.ctl.setup.get 16 ∧ statusWord s 12 = s.ctl.lastCode ∧
    word 13 = (match s.ctl.lastResult with
      | .none => 0 | .done => 1 | .started => 2 | .busy => 3 | .badState => 4 | .badMode => 5 | .badArg => 6 | .badSetup => 7
      | .conflict => 8 | .badSwitch => 9 | .malformed => 10 | .unknown => 11) ∧
    statusWord s 14 = s.ctl.count ∧ word 15 = s.ctl.ptr.val ∧
    word 16 = (match s.ctl.setupFault with | none => 0xFFFF | some i => i.val) ∧
    word 17 = (if s.mover.active then 1 else 0) + (if s.mover.kind = .copy then 0x10 else 0) +
      (if s.mover.dir = .down then 0x100 else 0) ∧
    statusWord s 18 = s.mover.done ∧ statusWord s 19 = s.mover.length ∧
    (let source := fun c : ClockSource => match c with | .rcb => 0 | .rcf => 1 | .rcs => 2 | .ext => 4 | .rcfM => 5 | .extM => 6
     word 20 = source s.clock.source + (match s.clock.cond with | .ready => 0 | .checking _ => 0x100 | .stopped => 0x200) ∧
     word 21 = (match s.clock.switch with
       | none => 0xFFFF | some p => source p.target + (if p.phase = .ready then 0x100 else 0))) ∧
    word 22 = s.clock.mult.factor.toNat ∧
    word 23 = (match s.clock.mult.state with | .off => 0 | .locking => 1 | .locked => 2) ∧
    word 24 = s.scan.base.toNat % 0x10000 ∧ word 25 = s.scan.base.toNat / 0x10000 ∧
    word 26 = s.pins.cps.toNat + 0x10 * s.pins.cks.toNat ∧ ∀ k : Fin 32, 27 ≤ k.val → statusWord s k = 0)

/-- Where each byte of a read comes from (R45 to R48): the youngest entry of the block that marks the byte, the fill pattern, the copy
source, memory.  The unfinished ranges of the mover: with d words done of L, T + d to T + L - 1 UP and T to T + L - 1 - d DOWN, of the destination
T and, for a COPY, of the source; none while IDLE (R108). -/
def Obligations.ByteSourcesInOrder : Prop :=
  (∀ (m : Mover) (x : Nat),
    let unfinishedFrom := fun first : WordAddr =>
      if m.dir = .up then first.toNat + m.done.toNat ≤ x ∧ x + 1 ≤ first.toNat + m.length.toNat
      else first.toNat ≤ x ∧ x + 1 ≤ first.toNat + m.length.toNat - m.done.toNat
    ((destRange m).has x = true ↔ m.active = true ∧ unfinishedFrom m.dst) ∧
    ((srcRange m).has x = true ↔ m.active = true ∧ m.kind = .copy ∧ unfinishedFrom m.src)) ∧
  ∀ (s : State) (a : WordAddr) (odd : Bool),
    let position := 2 * (a.toNat % 8) + if odd then 1 else 0
    (∀ older e younger b, s.queue = older ++ e :: younger → e.block = blockOf a → e.byteAt position = some b →
      (∀ y ∈ younger, y.block = blockOf a → y.byteAt position = none) → laneSource s a odd = .queue b) ∧
    ((∀ e ∈ s.queue, e.block = blockOf a → e.byteAt position = none) →
      (s.mover.active = true → s.mover.kind = .fill → (destRange s.mover).has a.toNat = true →
        laneSource s a odd = .fillPattern (s.mover.pattern.extractLsb' (if odd then 8 else 0) 8)) ∧
      (s.mover.active = true → s.mover.kind = .copy → (destRange s.mover).has a.toNat = true →
        laneSource s a odd = .copySource ∧ chosenWord s a = s.mover.src + (a - s.mover.dst)) ∧
      ((destRange s.mover).has a.toNat = false → laneSource s a odd = .memory ∧ chosenWord s a = a))

/-- A read in RUNNING or DRAINING whose enabled bytes are all supplied is answered at once without a tenure: each lane, enabled or not, takes its
newest byte where the queue or the fill pattern supplies it, and a lane that is not enabled and would need the memory reads H'00 (R49, R52). -/
def Obligations.ReadWithoutTenureIsAnsweredAtOnce : Prop :=
  ∀ (s : State) (a : WordAddr) (lanes : Lanes) (cycle : BitVec 10),
    sharing s = true → s.host.access.busy = false → (controlWord s.pins.cps a).any intervened = false →
    needsTenure s a lanes = false →
    ∃ lane0 lane1, exec (.hostRead a lanes cycle) s = .next (s.withHost ⟨.readHold a, false, mkWord lane0 lane1⟩) ∧
      (lanes.lane0 = true → lane0 = resolvedByte s a false) ∧ (lanes.lane1 = true → lane1 = resolvedByte s a true) ∧
      (∀ b, (laneSource s a false).supplied = some b → lane0 = b) ∧ (∀ b, (laneSource s a true).supplied = some b → lane1 = b) ∧
      ((laneSource s a false).supplied = none → lane0 = 0) ∧ ((laneSource s a true).supplied = none → lane1 = 0)

/-- A read that needs the memory claims the port; with PREEMPT set in DIRECT mode and a line fetch in progress before its last cycle, it
preempts the fetch (R50, R63, R70); in the last cycle, and for any later count, the fetch is marked as preempted in its last cycle, in which it then
ends normally.  A fetch is preempted once.  The port cycles completed at the take are the command's operand (log 10). -/
def Obligations.ReadThatNeedsMemoryClaimsThePort : Prop :=
  ∀ (s : State) (a : WordAddr) (lanes : Lanes) (cycle : BitVec 10),
    sharing s = true → s.host.access.busy = false → (controlWord s.pins.cps a).any intervened = false →
    needsTenure s a lanes = true →
    (s.ctl.mode.sharing ≠ .direct ∨ s.ctl.mode.preempt = false ∨ s.port.tenure.any Tenure.isLineFetch = false ∨
        (∃ line c, s.port.tenure = some (.lineFetch line (some c))) →
      exec (.hostRead a lanes cycle) s = .next (settle (s.withHost ⟨.readClaim a lanes, false, s.host.data⟩))) ∧
    (∀ line, s.ctl.mode.sharing = .direct → s.ctl.mode.preempt = true → s.port.tenure = some (.lineFetch line none) →
      cycle.toNat + 1 < (tenureOps s (.lineFetch line none)).length →
      exec (.hostRead a lanes cycle) s =
        .next ((s.withHost ⟨.readClaim a lanes, false, s.host.data⟩).withPort
          { s.port with tenure := some (.lineFetch line (some cycle)) })) ∧
    (∀ line, s.ctl.mode.sharing = .direct → s.ctl.mode.preempt = true → s.port.tenure = some (.lineFetch line none) →
      (tenureOps s (.lineFetch line none)).length ≤ cycle.toNat + 1 →
      exec (.hostRead a lanes cycle) s =
        .next ((s.withHost ⟨.readClaim a lanes, false, s.host.data⟩).withPort
          { s.port with tenure := some (.lineFetch line
            (some (BitVec.ofNat 10 ((tenureOps s (.lineFetch line none)).length - 1)))) }))

/-- HOST_READ_TENURE_END: each lane takes its supplied byte, else the memory byte of the same lane of the word the tenure reads; HWAIT is
released and the port falls free, or where the drain has ended the pass-through path opens (R50, R52, R73). -/
def Obligations.ReadTenureAnswers : Prop :=
  ∀ (s : State) (a chosen : WordAddr) (l0 l1 : Option Byte) (wake : Bool),
    s.port.tenure = some (.hostRead a chosen l0 l1) →
    let answered := (s.withHost { s.host with
        access := .none
        data := mkWord (l0.getD (Memory.readByte s.mem (2 * chosen.toNat)))
          (l1.getD (Memory.readByte s.mem (2 * chosen.toNat + 1))) }).withPort { s.port with tenure := none }
    exec (.hostReadTenureEnd wake) s =
      .next (if s.ctl.istate.afterDrainCut = true ∧ s.scan.state = .off then openPath wake answered else settle answered)

/-! ### Section 2: the queue -/

/-- Status word 5 equals the sum of status words 6 to 9, in every state (R42). -/
def Obligations.QueueCountsAddUp : Prop :=
  ∀ s : State, statusWord s 5 = statusWord s 6 + statusWord s 7 + statusWord s 8 + statusWord s 9

/-- COMMIT (R31, R137): BADSTATE outside RUNNING, BADMODE outside COMMIT mode; otherwise every OPEN entry whose block has a PENDING entry is
folded into it, every other OPEN entry becomes PENDING, and the rest of the queue stays. -/
def Obligations.CommitReleasesTheOpenGeneration : Prop :=
  ∀ s : State, s.pins.reset = false →
    (s.ctl.istate ≠ .running → exec .commit s = .next (recordCommand 0x5310 .badState s)) ∧
    (s.ctl.istate = .running → s.ctl.mode.sharing ≠ .commit → exec .commit s = .next (recordCommand 0x5310 .badMode s)) ∧
    (s.ctl.istate = .running → s.ctl.mode.sharing = .commit → QueueSound s.queue →
      ∃ q, exec .commit s =
          .next (recordCommand 0x5310 .done
            (noteWait (s.queue.any fun e => e.gen == .opn && (findEntry s.queue e.block .pending).isSome) false (s.withQueue q))) ∧
        (∀ b, findEntry q b .opn = none ∧ findEntry q b .direct = findEntry s.queue b .direct ∧
          findEntry q b .retiring = findEntry s.queue b .retiring) ∧
        (∀ b k, (findEntry q b .pending).bind (·.byteAt k) =
          ((findEntry s.queue b .opn).bind (·.byteAt k)).or ((findEntry s.queue b .pending).bind (·.byteAt k))) ∧
        (q.map Entry.block).Sublist (s.queue.map Entry.block))

/-- The shift at an ordinary cut: FRAME makes every OPEN entry RETIRING, COMMIT every PENDING entry, DIRECT none; nothing else of the queue changes
(R34).  The drain shift leaves no OPEN and no PENDING entry: their bytes, OPEN over PENDING, are RETIRING, and DIRECT entries stay (R35). -/
def Obligations.ShiftsAtTheCuts : Prop :=
  (∀ q : List Entry,
     cutShift .frame q = q.map (fun e => if e.gen = .opn then { e with gen := .retiring } else e) ∧
     cutShift .commit q = q.map (fun e => if e.gen = .pending then { e with gen := .retiring } else e) ∧
     cutShift .direct q = q) ∧
  (∀ q : List Entry, QueueSound q → hasGen q .retiring = false →
     (∀ b, findEntry (drainShift q) b .opn = none ∧ findEntry (drainShift q) b .pending = none ∧
       findEntry (drainShift q) b .direct = findEntry q b .direct) ∧
     (∀ b k, (findEntry (drainShift q) b .retiring).bind (·.byteAt k) =
       ((findEntry q b .opn).bind (·.byteAt k)).or ((findEntry q b .pending).bind (·.byteAt k))))

/-- RETIRE_TENURE_END: memory takes exactly the valid bytes of the WRITING entry, the entry leaves, a held write may be due, VISIBLE is raised
exactly where the last RETIRING entry left, and the port falls free (R39, R40, R41).  The model applies a tenure's accesses at its end (log 10). -/
def Obligations.RetireTenureWritesItsEntry : Prop :=
  ∀ (s : State) (older younger : List Entry) (e : Entry),
    s.port.tenure = some .retire → s.queue = older ++ e :: younger → e.state = .writing →
    (∀ x ∈ older ++ younger, x.state = .held) → Memory.wf s.mem = true →
    ∃ m, exec .retireTenureEnd s =
        .next (settle (raiseIf (e.gen == .retiring && !hasGen (older ++ younger) .retiring) .visible
          (noteWait true true (((s.withMem m).withQueue (older ++ younger)).withPort { s.port with tenure := none })))) ∧
      ∀ b, Memory.readByte m b =
        if b / 16 = e.block.toNat then (e.byteAt (b % 16)).getD (Memory.readByte s.mem b) else Memory.readByte s.mem b

/-! ### Section 4: the port -/

/-- The arbiter (R37, R63 to R66): at an idle port a due fetch is granted first, then the host or the queue by the toggle, then the mover;
the toggle becomes QUEUE_NEXT at a host grant and HOST_NEXT at a retire grant and stays at the others; with no claimant, with a tenure in
progress, or in pass-through nothing happens. -/
def Obligations.PortGrantsInOrder : Prop :=
  ∀ s : State,
    (sharing s = false ∨ s.port.tenure.isSome = true → settle s = s) ∧
    (sharing s = true → s.port.tenure = none →
      (∀ line, s.scan.fetchDue = some line →
        (settle s).port = ⟨some (.lineFetch line none), s.port.toggle⟩ ∧ (settle s).scan.fetchDue = none ∧
        (bufferOf (settle s).scan line).state = .filling ∧ (bufferOf (settle s).scan line).line = line ∧
        (bufferOf (settle s).scan line).mark = false ∧ (bufferOf (settle s).scan line).aborted = false ∧
        (settle s).host = s.host ∧ (settle s).queue = s.queue) ∧
      (s.scan.fetchDue = none →
        (∀ a lanes, s.host.access = .readClaim a lanes → s.port.toggle = .hostNext ∨ queueClaims s.mover s.queue = false →
          settle s = (s.withPort ⟨some (.hostRead a (chosenWord s a) (laneSource s a false).supplied (laneSource s a true).supplied),
            .queueNext⟩).withHost { s.host with access := .inTenure }) ∧
        (∀ w, s.host.access = .writeClaim w → s.port.toggle = .hostNext ∨ queueClaims s.mover s.queue = false →
          settle s = (s.withPort ⟨some (.hostWrite w), .queueNext⟩).withHost { s.host with access := .inTenure }) ∧
        (∀ older e younger, s.queue = older ++ e :: younger → eligible s.mover e = true →
          (∀ x ∈ older, eligible s.mover x = false) → (∀ x ∈ s.queue, x.state = .held) →
          s.host.access.claims = false ∨ s.port.toggle = .queueNext →
          settle s = (s.withPort ⟨some .retire, .hostNext⟩).withQueue (older ++ { e with state := .writing } :: younger)) ∧
        (s.host.access.claims = false → queueClaims s.mover s.queue = false →
          (moverClaims s = true →
            settle s = s.withPort ⟨some (if s.mover.kind = .fill then .fillStep (min 8 s.mover.remaining)
              else .copyStep (min 4 s.mover.remaining)), s.port.toggle⟩) ∧
          (moverClaims s = false → settle s = s))))

/-- The port cycles of each kind of tenure (R62), and the memory-side pins in each of them and at an idle port in RUNNING and DRAINING: address,
strobes, byte enables, and the data of a write (R39, R50, R60, R109, R110, R170).  Where no rule states a level the view gives none (log 21). -/
def Obligations.TenureLengthsInPortCycles : Prop :=
  (∀ s : State,
    (∀ a c l0 l1, (tenureOps s (.hostRead a c l0 l1)).length = 1) ∧ (∀ w, (tenureOps s (.hostWrite w)).length = 1) ∧
    (∀ e, e ∈ s.queue → e.isWriting = true → QueueSound s.queue →
      (tenureOps s .retire).length =
        ((List.range 8).filter fun j => (e.byteAt (2 * j)).isSome || (e.byteAt (2 * j + 1)).isSome).length ∧
      1 ≤ (tenureOps s .retire).length ∧ (tenureOps s .retire).length ≤ 8) ∧
    (∀ line p, (tenureOps s (.lineFetch line p)).length =
      if entryKind (entryWord1 s) = .data then 2 + s.lineWords else 2) ∧
    (∀ k, (tenureOps s (.fillStep k)).length = k) ∧ (∀ k, (tenureOps s (.copyStep k)).length = 2 * k)) ∧
  (∀ (s : State) (h : HostPins) (n : Nat), sharing s = true →
    let read := fun a : WordAddr => some (MemPins.mk (some a) true true false ⟨true, true⟩ ⟨false, none, none⟩)
    let written := fun (a : WordAddr) (w : Word) =>
      some (MemPins.mk (some a) true false true ⟨true, true⟩ ⟨true, some (w.extractLsb' 0 8), some (w.extractLsb' 8 8)⟩)
    let word := fun (first : WordAddr) (i : Nat) => BitVec.ofNat 20 (if s.mover.dir = .up then first.toNat + s.mover.done.toNat + i
      else first.toNat + s.mover.length.toNat - 1 - s.mover.done.toNat - i)
    (s.port.tenure = none → memPins s h n = some ⟨none, false, false, false, ⟨false, false⟩, ⟨false, none, none⟩⟩) ∧
    (∀ t, s.port.tenure = some t → (tenureOps s t).length ≤ n → memPins s h n = none) ∧
    (∀ a c l0 l1, s.port.tenure = some (.hostRead a c l0 l1) → memPins s h 0 = read c) ∧
    (∀ w, s.port.tenure = some (.hostWrite w) →
      memPins s h 0 = some ⟨some w.addr, true, false, true, w.lanes,
        ⟨true, some (w.data.extractLsb' 0 8), some (w.data.extractLsb' 8 8)⟩⟩) ∧
    (∀ e, s.port.tenure = some .retire → writingEntry s.queue = some e →
      memPins s h n = (((List.range 8).filter fun j => (e.byteAt (2 * j)).isSome || (e.byteAt (2 * j + 1)).isSome)[n]?).map fun j =>
        ⟨some (BitVec.ofNat 20 (e.block.toNat * 8 + j)), true, false, true, ⟨(e.byteAt (2 * j)).isSome, (e.byteAt (2 * j + 1)).isSome⟩,
          ⟨true, e.byteAt (2 * j), e.byteAt (2 * j + 1)⟩⟩) ∧
    (∀ line p, s.port.tenure = some (.lineFetch line p) →
      memPins s h 0 = read (s.scan.walk.extractLsb' 1 20) ∧ memPins s h 1 = read ((s.scan.walk + 2).extractLsb' 1 20) ∧
      (entryKind (entryWord1 s) = .data → n < s.lineWords →
        memPins s h (2 + n) = read ((entryWord1 s).extractLsb' 0 4 ++ entryWord0 s + BitVec.ofNat 20 n))) ∧
    (∀ k, s.port.tenure = some (.fillStep k) → n < k → memPins s h n = written (word s.mover.dst n) s.mover.pattern) ∧
    (∀ k, s.port.tenure = some (.copyStep k) → n < k →
      memPins s h n = read (word s.mover.src n) ∧
      memPins s h (k + n) = written (word s.mover.dst n) (Memory.readWord s.mem (word s.mover.src n))))

/-- LINE_FETCH_END: the target buffer takes kind, words and MARK from the entry at the walk pointer and is READY, the walk pointer advances
by 4, and the port falls free (R88, R89, R91).  A fetch preempted in its last cycle ends in the same way, and the read is granted at once (R65, R70); one
preempted before it does not come to this end: no event (log 7).  The model applies a tenure's accesses at its end (log 10). -/
def Obligations.LineFetchFillsItsBuffer : Prop :=
  ∀ (s : State) (line : BitVec 8),
    let w0 := Memory.readWord s.mem (s.scan.walk.extractLsb' 1 20)
    let w1 := Memory.readWord s.mem ((s.scan.walk + 2).extractLsb' 1 20)
    let filled := fun x : Scan => x.walk = s.scan.walk + 4 ∧
      bufferOf x line =
        { bufferOf s.scan line with
          kind := if w1.getLsbD 15 then .dark else if w1.getLsbD 14 then .repeated else .data
          words := if w1.getLsbD 15 || w1.getLsbD 14 then []
            else (List.range s.lineWords).map fun i => Memory.readWord s.mem (w1.extractLsb' 0 4 ++ w0 + BitVec.ofNat 20 i)
          mark := w1.getLsbD 13, state := .ready } ∧
      bufferOf x (line + 1) = bufferOf s.scan (line + 1) ∧
      { x with walk := s.scan.walk, bufA := s.scan.bufA, bufB := s.scan.bufB } = s.scan
    (s.port.tenure = some (.lineFetch line none) →
      ∃ x, exec .lineFetchEnd s = .next (settle ((s.withScan x).withPort { s.port with tenure := none })) ∧ filled x) ∧
    (∀ c a lanes, s.port.tenure = some (.lineFetch line (some c)) → s.host.access = .readClaim a lanes →
      (tenureOps s (.lineFetch line (some c))).length ≤ c.toNat + 1 →
      ∃ x, exec .lineFetchEnd s =
          .next (((s.withScan x).withPort ⟨some (.hostRead a (chosenWord s a) (laneSource s a false).supplied
            (laneSource s a true).supplied), .queueNext⟩).withHost { s.host with access := .inTenure }) ∧ filled x) ∧
    (∀ c, s.port.tenure = some (.lineFetch line (some c)) → c.toNat + 1 < (tenureOps s (.lineFetch line (some c))).length →
      exec .lineFetchEnd s = .next s)

/-- PREEMPTED_FETCH_CYCLE_END: a fetch preempted before its last cycle is aborted: READY, DARK, Aborted, no words, MARK only where word 1 had been
read; the walk pointer advances by 4; the read is granted at once and the toggle becomes QUEUE_NEXT (R65, R70, R92).  In its last cycle the
fetch ends as LINE_FETCH_END has it.  The other line buffer and the line index of the target keep their values. -/
def Obligations.PreemptionAbortsTheFetch : Prop :=
  ∀ (s : State) (line : BitVec 8) (c : BitVec 10) (a : WordAddr) (lanes : Lanes),
    s.port.tenure = some (.lineFetch line (some c)) → s.host.access = .readClaim a lanes →
    ∃ x, exec .preemptedFetchCycleEnd s =
        .next (((s.withScan x).withPort ⟨some (.hostRead a (chosenWord s a) (laneSource s a false).supplied
          (laneSource s a true).supplied), .queueNext⟩).withHost { s.host with access := .inTenure }) ∧
      x.walk = s.scan.walk + 4 ∧ (bufferOf x line).state = .ready ∧
      (c.toNat + 1 < (tenureOps s (.lineFetch line (some c))).length →
        bufferOf x line =
          { bufferOf s.scan line with
            kind := .dark, words := [], state := .ready, aborted := true
            mark := decide (2 ≤ c.toNat) && (Memory.readWord s.mem ((s.scan.walk + 2).extractLsb' 1 20)).getLsbD 13 }) ∧
      ((tenureOps s (.lineFetch line (some c))).length ≤ c.toNat + 1 →
        bufferOf x line =
          { bufferOf s.scan line with
            kind := entryKind (entryWord1 s), words := fetchedWords s, mark := entryMark (entryWord1 s), state := .ready }) ∧
      bufferOf x (line + 1) = bufferOf s.scan (line + 1) ∧
      { x with walk := s.scan.walk, bufA := s.scan.bufA, bufB := s.scan.bufB } = s.scan

/-! ### Section 5: the scan and the panel -/

/-- LINE_PERIOD_BOUNDARY in SHOW before the last line: the switch to the next line (R94): its buffer, DATA or DARK, is SHOWING, a REPEAT
buffer takes the data line just shown or is DARK, the other buffer is EMPTY, MARK and BLANKED are raised as the buffer carries them, and the next
fetch falls due.  The boundary that ends LEAD_IN switches to line 0: the scan is in SHOW, buffer A is SHOWING, a REPEAT buffer there is DARK, the fetch
of line 1 falls due, and FSO is low (R86, R94).  With no line fetch due or in progress (log 11) and LINE_WORDS at least 1, as R139 has it; an EMPTY
buffer keeps its fields and a DARK one has no words (log 18). -/
def Obligations.LineSwitchShowsTheNextLine : Prop :=
  (∀ (s : State) (wake : Bool), s.scan.state = .gap → s.scan.sub = .leadIn → fetchOutstanding s = false → 0 < s.lineWords →
    let b := s.scan.bufA
    let shown := if b.kind = .repeated then { b with kind := .dark, words := [], state := .showing } else { b with state := .showing }
    ∃ u, exec (.linePeriodBoundary wake) s = .next (settle u) ∧
      u.scan = { s.scan with
        state := .showing, timer := 0, line := 0, fetchDue := if 1 < s.lines then some 1 else none, bufA := shown
        bufB := if s.scan.bufB.state = .showing then { s.scan.bufB with state := .empty } else s.scan.bufB } ∧
      u.ctl = { s.ctl with events := s.ctl.events ||| (if b.mark then 2 else 0) ||| (if b.aborted then 8 else 0) } ∧
      u.panel = ⟨if b.kind = .data then (b.words[0]?.getD 0).extractLsb' 0 6 else 0, false, false, s.panel.pls, false, false⟩ ∧
      u.mem = s.mem ∧ u.queue = s.queue ∧ u.mover = s.mover ∧ u.clock = s.clock ∧ u.host = s.host ∧ u.port = s.port ∧
      u.pins = s.pins ∧ u.pending = s.pending) ∧
  ∀ (s : State) (wake : Bool), s.scan.state = .showing → fetchOutstanding s = false → s.scan.line.toNat + 1 < s.lines →
    0 < s.lineWords →
    let n := s.scan.line + 1
    let b := bufferOf s.scan n
    let shown := bufferOf s.scan s.scan.line
    ∃ u, exec (.linePeriodBoundary wake) s = .next (settle u) ∧
      u.scan.state = .showing ∧ u.scan.timer = 0 ∧ u.scan.line = n ∧
      u.scan.fetchDue = (if n.toNat + 1 < s.lines then some (n + 1) else none) ∧
      (bufferOf u.scan n).state = .showing ∧ (bufferOf u.scan n).line = b.line ∧ (bufferOf u.scan n).mark = b.mark ∧
      (b.kind ≠ .repeated → (bufferOf u.scan n).kind = b.kind ∧ (bufferOf u.scan n).words = b.words) ∧
      (b.kind = .repeated → shown.state = .showing → shown.kind = .data → n ≠ 0 →
        (bufferOf u.scan n).kind = .data ∧ (bufferOf u.scan n).words = shown.words) ∧
      (b.kind = .repeated → shown.kind ≠ .data → (bufferOf u.scan n).kind = .dark) ∧
      (shown.state = .showing → (bufferOf u.scan s.scan.line).state = .empty) ∧
      u.ctl = { s.ctl with events := s.ctl.events ||| (if b.mark then 2 else 0) ||| (if b.aborted then 8 else 0) } ∧
      u.panel.poe = false ∧ u.panel.plt = false ∧ u.panel.pck = false ∧ u.panel.pls = s.scan.line ∧ u.panel.fso = false ∧
      u.mem = s.mem ∧ u.queue = s.queue ∧ u.mover = s.mover ∧ u.clock = s.clock ∧ u.host = s.host ∧ u.port = s.port ∧
      u.pins = s.pins ∧ u.scan.frames = s.scan.frames ∧ u.scan.ext = s.scan.ext ∧ u.scan.base = s.scan.base ∧
      u.scan.walk = s.scan.walk

/-- LINE_PERIOD_BOUNDARY at the end of the last line's period: the cut (R78, R81, R100): frame count and FRAME, a ready staged base applied, the walk
pointer at the base in force, both buffers EMPTY, the panel dark, a READY clock switch applied.  In RUNNING the gap begins in COUNT and the queue
makes the shift for the mode in force (R34); in DRAINING it is the drain cut: the drain shift, and the gap begins in EXTEND (R35, R80, R87).  That an
EMPTY buffer keeps its other fields is the model's reading (log 18). -/
def Obligations.CutEndsTheFrame : Prop :=
  (∀ (s : State) (wake : Bool), s.scan.state = .showing → fetchOutstanding s = false → s.lines ≤ s.scan.line.toNat + 1 →
     s.ctl.istate = .running →
     let base := if s.scan.stagedReady then formBase s.scan.stagedLo s.scan.stagedHi else s.scan.base
     exec (.linePeriodBoundary wake) s =
       .next (settle (applyReadySwitch
         ((((s.withScan { s.scan with
             state := .gap, sub := .count, timer := 0, gapCount := 0, ext := 0, frames := s.scan.frames + 1, base := base
             stagedReady := false, walk := base, bufA := { s.scan.bufA with state := .empty }
             bufB := { s.scan.bufB with state := .empty }, syncSeen := false }).withPanel
           { pd := 0, pck := false, plt := false, pls := s.scan.line, poe := false, fso := s.panel.fso }).withQueue
           (cutShift s.ctl.mode.sharing s.queue)).withCtl { s.ctl with events := s.ctl.events ||| 1 })))) ∧
  (∀ (s : State) (wake : Bool) (target : DrainTarget), s.scan.state = .showing → fetchOutstanding s = false →
     s.lines ≤ s.scan.line.toNat + 1 → s.ctl.istate = .draining target false →
     let base := if s.scan.stagedReady then formBase s.scan.stagedLo s.scan.stagedHi else s.scan.base
     ∃ u, exec (.linePeriodBoundary wake) s = .next (settle (applyReadySwitch u)) ∧
       u.scan = { s.scan with
         state := .gap, sub := .extend, timer := 0, gapCount := 0, ext := 0, frames := s.scan.frames + 1, base := base
         stagedReady := false, walk := base, bufA := { s.scan.bufA with state := .empty }
         bufB := { s.scan.bufB with state := .empty }, syncSeen := false } ∧
       u.queue = drainShift s.queue ∧
       u.ctl = { s.ctl with istate := .draining target true, events := s.ctl.events ||| 1 } ∧
       u.mem = s.mem ∧ u.mover = s.mover ∧ u.clock = s.clock ∧ u.port = s.port ∧ u.pins = s.pins ∧ u.panel.poe = false)

/-- LINE_PERIOD_BOUNDARY in a gap.  In COUNT before the count reaches GAP_LINES the gap period count grows by one (R82).  A checked boundary
(R83, R84, R86): LEAD_IN begins where no RETIRING entry is left and the role is not FOLLOWER, or sync is seen, or the sync wait count has reached
SYNC_LIMIT (then SYNCLOST is raised); otherwise the gap goes on in EXTEND.  FRAME_SYNC_ARRIVAL sets sync-seen for a FOLLOWER in COUNT or EXTEND and
for no other role, state or sub-phase (R85). -/
def Obligations.GapBoundariesCountAndCheck : Prop :=
  (∀ (s : State) (wake : Bool), s.scan.state = .gap → s.scan.sub = .count → fetchOutstanding s = false →
     s.scan.gapCount.toNat + 1 < s.gapLines →
     exec (.linePeriodBoundary wake) s =
       .next (settle (s.withScan { s.scan with timer := 0, gapCount := s.scan.gapCount + 1 }))) ∧
  (∀ (s : State) (wake : Bool), s.scan.state = .gap → fetchOutstanding s = false →
     (s.scan.sub = .extend ∧ s.ctl.istate.afterDrainCut = false ∨
       s.scan.sub = .count ∧ s.gapLines ≤ s.scan.gapCount.toNat + 1) →
     let waited := if s.scan.sub = .count then 0 else s.scan.gapCount
     let leadIn := (s.withScan { s.scan with timer := 0, gapCount := waited, sub := .leadIn, fetchDue := some 0 }).withPanel
       { s.panel with fso := s.ctl.mode.role == .leader }
     let ext := if s.scan.ext = 0xFFFF then s.scan.ext else s.scan.ext + 1
     (hasGen s.queue .retiring = true →
       exec (.linePeriodBoundary wake) s =
         .next (settle (s.withScan { s.scan with timer := 0, gapCount := waited, sub := .extend, ext := ext }))) ∧
     (hasGen s.queue .retiring = false → s.ctl.mode.role ≠ .follower ∨ s.scan.syncSeen = true →
       exec (.linePeriodBoundary wake) s = .next (settle leadIn)) ∧
     (hasGen s.queue .retiring = false → s.ctl.mode.role = .follower → s.scan.syncSeen = false →
       waited.toNat < s.syncLimit →
       exec (.linePeriodBoundary wake) s =
         .next (settle (s.withScan { s.scan with timer := 0, gapCount := waited + 1, sub := .extend, ext := ext }))) ∧
     (hasGen s.queue .retiring = false → s.ctl.mode.role = .follower → s.scan.syncSeen = false →
       waited.toNat = s.syncLimit →
       exec (.linePeriodBoundary wake) s =
         .next (settle (leadIn.withCtl { s.ctl with events := s.ctl.events ||| 0x200 })))) ∧
  (∀ s : State,
     (s.ctl.mode.role = .follower → s.scan.state = .gap → s.scan.sub = .count ∨ s.scan.sub = .extend →
       exec .frameSyncArrival s = .next (s.withScan { s.scan with syncSeen := true })) ∧
     (s.ctl.mode.role ≠ .follower ∨ s.scan.state ≠ .gap ∨ s.scan.sub = .leadIn → exec .frameSyncArrival s = .next s))

/-- A boundary of the drain gap (R73, R87, R144): while the queue holds an entry or the mover is ACTIVE the gap goes on; otherwise, with no host
tenure in progress and no host claim or held write, the drain ends toward PASSIVE or DORMANT: the scan is OFF, the path opens, STATE is raised.  The
level of WAKE is the command's operand (log 15).  With a host tenure in progress, or a host claim or a held write, the scan goes OFF and the state stays
DRAINING: the tenure runs on, or the claim is granted at the idle port, and a held write claims there (R15, R63, R65, R73); the end of that tenure
opens the path (O12, O17).  An answered or taken access in its minimum hold is held on there: the model's choice but for
interventions (log 24). -/
def Obligations.DrainEndsWhenQueueAndMoverAreDone : Prop :=
  ∀ (s : State) (wake : Bool) (target : DrainTarget),
    s.ctl.istate = .draining target true → s.scan.state = .gap → s.scan.sub = .extend → fetchOutstanding s = false →
    (s.queue ≠ [] ∨ s.mover.active = true →
      exec (.linePeriodBoundary wake) s =
        .next (settle (s.withScan { s.scan with
          timer := 0, ext := if s.scan.ext = 0xFFFF then s.scan.ext else s.scan.ext + 1 }))) ∧
    (s.queue = [] → s.mover.active = false → s.pins.reset = false →
      let off := s.withScan { s.scan with timer := 0, state := .off }
      (s.port.tenure.isSome = true → (∀ w why due, s.host.access ≠ .writeWait w why due) →
        exec (.linePeriodBoundary wake) s = .next off) ∧
      (∀ w why due, s.port.tenure.isSome = true → s.host.access = .writeWait w why due →
        exec (.linePeriodBoundary wake) s = .next (off.withHost { s.host with access := .writeClaim w })) ∧
      (∀ a lanes, s.port.tenure = none → s.host.access = .readClaim a lanes →
        exec (.linePeriodBoundary wake) s =
          .next ((off.withPort ⟨some (.hostRead a a none none), .queueNext⟩).withHost { s.host with access := .inTenure })) ∧
      (∀ w, s.port.tenure = none → s.host.access = .writeClaim w ∨ (∃ why due, s.host.access = .writeWait w why due) →
        exec (.linePeriodBoundary wake) s =
          .next ((off.withPort ⟨some (.hostWrite w), .queueNext⟩).withHost { s.host with access := .inTenure }))) ∧
    (s.queue = [] → s.mover.active = false → s.port.tenure = none → s.host.access.busy = false →
      let ended := ((s.withScan { s.scan with timer := 0, state := .off }).withPins { s.pins with wake := wake }).withCtl
        { s.ctl with events := s.ctl.events ||| 0x400 }
      (target = .passive →
        exec (.linePeriodBoundary wake) s = .next (applyReadySwitch (ended.withCtl { ended.ctl with istate := .passive }))) ∧
      (target = .dormant → wake = false →
        exec (.linePeriodBoundary wake) s =
          .next ((ended.withCtl { ended.ctl with istate := .dormant }).withClock { s.clock with
            cond := if s.clock.source = .rcb then .ready else .stopped, mult := { s.clock.mult with state := .off } })) ∧
      (target = .dormant → wake = true → wakeFault s = none → ∃ t, exec (.linePeriodBoundary wake) s = .next t ∧
        t.ctl.istate = .starting ∧ t.ctl.setupFault = none ∧ t.ctl.mode = s.ctl.mode ∧ t.scan.frames = s.scan.frames) ∧
      (∀ i, target = .dormant → wake = true → wakeFault s = some i → ∃ t, exec (.linePeriodBoundary wake) s = .next t ∧
        t.ctl.istate = .dormant ∧ t.ctl.setupFault = some i ∧ eventSet t.ctl.events .refused = true ∧
        t.ctl.count = s.ctl.count ∧ t.ctl.lastResult = s.ctl.lastResult))

/-- FIRST_CUT in STARTING with the source READY (R72, R79, R81, R100, R128, R141): the cut is made in full, the state is RUNNING, FRAME and STATE are
raised, a READY switch is applied, the toggle is HOST_NEXT; a memory read or a write in progress over the pass-through path becomes a one-cycle
tenure without HWAIT, a write with no byte enable is taken, and an intervention is no tenure.  The access in progress is the command's operand (log
16).  That an EMPTY buffer keeps its other fields is the model's reading (log 18). -/
def Obligations.FirstCutStartsTheScan : Prop :=
  ∀ (s : State) (access : CutAccess), s.ctl.istate = .starting → s.clock.cond = .ready → s.pins.reset = false →
    let base := if s.scan.stagedReady then formBase s.scan.stagedLo s.scan.stagedHi else s.scan.base
    let applied := applyReadySwitch s
    ∃ u : State, u.port = ⟨none, .hostNext⟩ ∧
      u.ctl = { applied.ctl with istate := .running, events := applied.ctl.events ||| 0x401 } ∧ u.clock = applied.clock ∧
      u.scan = { s.scan with
        state := .gap, sub := .count, timer := 0, gapCount := 0, ext := 0, frames := s.scan.frames + 1, base := base
        stagedReady := false, walk := base, bufA := { s.scan.bufA with state := .empty }
        bufB := { s.scan.bufB with state := .empty }, syncSeen := false } ∧
      u.queue = cutShift s.ctl.mode.sharing s.queue ∧ u.mem = s.mem ∧ u.mover = s.mover ∧ u.pins = s.pins ∧ u.host = s.host ∧
      u.panel.poe = false ∧ u.pending = s.pending ∧
      (access = .none → exec (.firstCut access) s = .next u) ∧
      (∀ a l, access = .read a l → (controlWord s.pins.cps a).any intervened = true → exec (.firstCut access) s = .next u) ∧
      (∀ a l, access = .read a l → (controlWord s.pins.cps a).any intervened = false →
        exec (.firstCut access) s =
          .next ((u.withPort ⟨some (.hostRead a a none none), .hostNext⟩).withHost { s.host with access := .handedOver })) ∧
      (∀ a d l, access = .write a d l → l.empty = false →
        exec (.firstCut access) s =
          .next ((u.withPort ⟨some (.hostWrite ⟨a, d, l⟩), .hostNext⟩).withHost { s.host with access := .handedOver })) ∧
      (∀ a d l, access = .write a d l → l.empty = true →
        exec (.firstCut access) s = .next (controlTaken ⟨a, d, l⟩ (u.withHost { s.host with access := .none })))

/-- PANEL_PORT_LINE_SEQUENCE (R95, R96): at clock c of a line period the columns are shifted (PCK high in the second half), then PLT, then
PLS, and from LINE_WORDS + 2 a DATA line is lit; a DARK line shifts nothing and is not lit. -/
def Obligations.PanelRunsTheLineSequence : Prop :=
  ∀ (s : State) (clock : BitVec 12) (half : Bool), s.scan.state = .showing → s.scan.timer ≤ clock → clock.toNat < s.linePeriod →
    let b := bufferOf s.scan s.scan.line
    ∃ p n, exec (.panelPortLineSequence clock half) s =
        .next (((s.withScan { s.scan with timer := clock }).withPanel p).withFree n) ∧
      (clock.toNat < s.lineWords →
        p.pd = (if b.kind = .data then (b.words[clock.toNat]?.getD 0).extractLsb' 0 6 else 0) ∧
        p.pck = (b.kind == .data && half)) ∧
      (s.lineWords ≤ clock.toNat → p.pck = false) ∧
      (p.plt = true ↔ clock.toNat = s.lineWords) ∧
      (s.lineWords < clock.toNat → p.pls = b.line) ∧ (clock.toNat ≤ s.lineWords → p.pls = s.panel.pls) ∧
      (p.poe = true ↔ b.kind = .data ∧ s.lineWords + 2 ≤ clock.toNat) ∧ p.fso = s.panel.fso

/-! ### Section 6: the mover -/

/-- FILL at its take (R104, R106, R107, R137): the checks in order, and where they pass the mover record and the first step's claim. -/
def Obligations.FillChecksAndStarts : Prop :=
  ∀ s : State, s.pins.reset = false →
    let lo := s.ctl.args.get 0
    let hi := s.ctl.args.get 1
    let length := (s.ctl.args.get 2).toNat
    let first := hi.toNat * 0x10000 + lo.toNat
    let page := 0xFC000 + s.pins.cps.toNat * 0x800
    let badArg := 15 < hi.toNat ∨ length = 0 ∨ 0xFFFFF < first + length - 1 ∨ (first < page + 0x800 ∧ page < first + length)
    let conflict := ∃ e ∈ s.queue, first < e.block.toNat * 8 + 8 ∧ e.block.toNat * 8 < first + length
    (s.ctl.istate ≠ .running → exec .fill s = .next (settle (recordCommand 0x5320 .badState s))) ∧
    (s.ctl.istate = .running → s.mover.active = true → exec .fill s = .next (settle (recordCommand 0x5320 .busy s))) ∧
    (s.ctl.istate = .running → s.mover.active = false → badArg →
      exec .fill s = .next (settle (recordCommand 0x5320 .badArg s))) ∧
    (s.ctl.istate = .running → s.mover.active = false → ¬ badArg → conflict →
      exec .fill s = .next (settle (recordCommand 0x5320 .conflict s))) ∧
    (s.ctl.istate = .running → s.mover.active = false → ¬ badArg → ¬ conflict →
      exec .fill s = .next (settle (recordCommand 0x5320 .started
        (s.withMover ⟨true, .fill, .up, 0, hi.extractLsb' 0 4 ++ lo, s.ctl.args.get 2, 0, s.ctl.args.get 3, false⟩))))

/-- COPY at its take (R105 to R107, R137): the checks in order, and where they pass the mover record, its direction DOWN exactly when the
destination is greater than the source and the ranges overlap. -/
def Obligations.CopyChecksAndStarts : Prop :=
  ∀ s : State, s.pins.reset = false →
    let arg := fun i : Fin 6 => s.ctl.args.get i
    let length := (arg 4).toNat
    let src := (arg 1).toNat * 0x10000 + (arg 0).toNat
    let dst := (arg 3).toNat * 0x10000 + (arg 2).toNat
    let page := 0xFC000 + s.pins.cps.toNat * 0x800
    let badArg := 15 < (arg 1).toNat ∨ 15 < (arg 3).toNat ∨ length = 0 ∨ 0xFFFFF < dst + length - 1 ∨ 0xFFFFF < src + length - 1 ∨
      (dst < page + 0x800 ∧ page < dst + length) ∨ (src < page + 0x800 ∧ page < src + length)
    let conflict := ∃ e ∈ s.queue, (dst < e.block.toNat * 8 + 8 ∧ e.block.toNat * 8 < dst + length) ∨
      (src < e.block.toNat * 8 + 8 ∧ e.block.toNat * 8 < src + length)
    (s.ctl.istate ≠ .running → exec .copy s = .next (settle (recordCommand 0x5321 .badState s))) ∧
    (s.ctl.istate = .running → s.mover.active = true → exec .copy s = .next (settle (recordCommand 0x5321 .busy s))) ∧
    (s.ctl.istate = .running → s.mover.active = false → badArg →
      exec .copy s = .next (settle (recordCommand 0x5321 .badArg s))) ∧
    (s.ctl.istate = .running → s.mover.active = false → ¬ badArg → conflict →
      exec .copy s = .next (settle (recordCommand 0x5321 .conflict s))) ∧
    (s.ctl.istate = .running → s.mover.active = false → ¬ badArg → ¬ conflict →
      exec .copy s = .next (settle (recordCommand 0x5321 .started
        (s.withMover ⟨true, .copy, if src < dst ∧ dst < src + length then .down else .up, (arg 1).extractLsb' 0 4 ++ arg 0,
          (arg 3).extractLsb' 0 4 ++ arg 2, arg 4, 0, 0, false⟩))))

/-- MOVESTOP at its take (R115, R137): BADSTATE outside RUNNING and DRAINING; DONE with no change while IDLE; during a step STARTED with the stop
request set; between steps STARTED, the mover IDLE at once, MOVEABORT raised. -/
def Obligations.MovestopEndsTheOperation : Prop :=
  ∀ s : State, s.pins.reset = false →
    (s.ctl.istate.passThrough = true → exec .movestop s = .next (settle (recordCommand 0x5322 .badState s))) ∧
    (s.ctl.istate.passThrough = false → s.mover.active = false →
      exec .movestop s = .next (settle (recordCommand 0x5322 .done s))) ∧
    (s.ctl.istate.passThrough = false → s.mover.active = true → s.port.tenure.any Tenure.isMoverStep = true →
      exec .movestop s = .next (settle (recordCommand 0x5322 .started (s.withMover { s.mover with stopReq := true })))) ∧
    (s.ctl.istate.passThrough = false → s.mover.active = true → s.port.tenure.any Tenure.isMoverStep = false →
      exec .movestop s = .next (settle (recordCommand 0x5322 .started
        (noteWait false false ((s.withMover { s.mover with active := false, stopReq := false }).withCtl
          { s.ctl with events := s.ctl.events ||| 0x20 })))))

/-- The end of a FILL step of k words: the k lowest unfinished destination words hold the pattern and no other byte changes (R109); of a COPY
step: each of its k destination words T + j takes the content that source word S + j had, the k lowest unfinished words UP, the k highest DOWN,
and no other byte changes (R110).  The model applies a step's accesses at its end (log 10), and what the end unblocks takes part in the arbiter's
choice at that instant, which is made in the same command, where R37, R64 and R116 allow other orders: the model's choice (log 22). -/
def Obligations.MoverStepsWriteTheirWords : Prop :=
  (∀ (s : State) (k : Nat), s.port.tenure = some (.fillStep k) → PortSound s → Memory.wf s.mem = true →
     s.mover.dir = .up → s.mover.dst.toNat + s.mover.length.toNat ≤ 0x100000 →
     ∃ m, exec .moverStepEnd s =
         .next (settle (stepEnded k ((s.withMem m).withPort { s.port with tenure := none }))) ∧
       ∀ b, Memory.readByte m b =
         if s.mover.dst.toNat + s.mover.done.toNat ≤ b / 2 ∧ b / 2 < s.mover.dst.toNat + s.mover.done.toNat + k then
           s.mover.pattern.extractLsb' (8 * (b % 2)) 8
         else Memory.readByte s.mem b) ∧
  (∀ (s : State) (k : Nat), s.port.tenure = some (.copyStep k) → PortSound s → Memory.wf s.mem = true →
     s.mover.dst.toNat + s.mover.length.toNat ≤ 0x100000 → s.mover.src.toNat + s.mover.length.toNat ≤ 0x100000 →
     let j0 := if s.mover.dir = .up then s.mover.done.toNat else s.mover.length.toNat - s.mover.done.toNat - k
     ∃ m, exec .moverStepEnd s =
         .next (settle (stepEnded k ((s.withMem m).withPort { s.port with tenure := none }))) ∧
       ∀ b, Memory.readByte m b =
         if s.mover.dst.toNat + j0 ≤ b / 2 ∧ b / 2 < s.mover.dst.toNat + j0 + k then
           Memory.readByte s.mem (2 * (s.mover.src.toNat + (b / 2 - s.mover.dst.toNat)) + b % 2)
         else Memory.readByte s.mem b)

/-- What the end of a step of k words does besides memory (R111, R114, R115). -/
def Obligations.StepEndCompletesStopsOrGoesOn : Prop :=
  ∀ (s : State) (k : Nat), s.mover.done.toNat + k ≤ s.mover.length.toNat →
    let m := { s.mover with done := s.mover.done + BitVec.ofNat 16 k }
    (s.mover.done.toNat + k = s.mover.length.toNat →
      stepEnded k s = noteWait false false ((s.withMover { m with active := false, stopReq := false }).withCtl
        { s.ctl with events := s.ctl.events ||| 0x10 })) ∧
    (s.mover.done.toNat + k < s.mover.length.toNat → s.mover.stopReq = true →
      stepEnded k s = noteWait false false ((s.withMover { m with active := false, stopReq := false }).withCtl
        { s.ctl with events := s.ctl.events ||| 0x20 })) ∧
    (s.mover.done.toNat + k < s.mover.length.toNat → s.mover.stopReq = false →
      stepEnded k s = noteWait false false (s.withMover m))

/-! ### Section 7: the clock -/

/-- CLKSEL at its take (R123, R125, R126, R128): the checks in order, the pending switch with its factor, its phase and the multiplier's start;
in PASSIVE a switch that is READY is applied at once. -/
def Obligations.ClkselChecksAndMakesASwitch : Prop :=
  ∀ s : State, s.pins.reset = false →
    let code := (s.ctl.args.get 0).toNat
    let factor := (s.ctl.args.get 1).toNat
    let allowed := s.ctl.istate = .passive ∨ s.ctl.istate = .running
    let free := s.clock.switch = none ∧ s.clock.isChecking = false
    let badArg := ¬ (code ∈ [0, 1, 2, 4, 5, 6]) ∨ (code = 5 ∧ ¬ (2 ≤ factor ∧ factor ≤ 4)) ∨ (code = 6 ∧ ¬ (2 ≤ factor ∧ factor ≤ 16))
    let badSwitch := ((code = 4 ∨ code = 6) ∧ eventSet s.ctl.events .clkFail = true) ∨
      ((code = 5 ∨ code = 6) ∧ s.clock.source.multiplied = true)
    let rec_ := fun r => Host.Outcome.next (recordCommand 0x5330 r s)
    let make := fun (c : Clock) =>
      let u := recordCommand 0x5330 .started (s.withClock c)
      Host.Outcome.next (if s.ctl.istate = .passive then applyReadySwitch u else u)
    (¬ allowed → exec .clksel s = rec_ .badState) ∧
    (allowed → ¬ free → exec .clksel s = rec_ .busy) ∧
    (allowed → free → badArg → exec .clksel s = rec_ .badArg) ∧
    (allowed → free → ¬ badArg → badSwitch → exec .clksel s = rec_ .badSwitch) ∧
    (allowed → free → ¬ badArg → ¬ badSwitch → code < 5 → code = s.clock.source.code.toNat → exec .clksel s = rec_ .done) ∧
    (allowed → free → ∀ target, target = .rcb ∧ code = 0 ∨ target = .rcf ∧ code = 1 ∨ target = .rcs ∧ code = 2 →
      s.clock.source ≠ target →
      exec .clksel s = make { s.clock with switch := some ⟨target, 0, .ready⟩, timer := none }) ∧
    (allowed → free → ¬ badSwitch → code = 4 → s.clock.source ≠ .ext →
      exec .clksel s = make (if s.clock.source = .extM ∧ s.clock.cond = .ready
        then { s.clock with switch := some ⟨.ext, 0, .ready⟩, timer := none }
        else { s.clock with switch := some ⟨.ext, 0, .waitReady⟩, timer := some 0 })) ∧
    (allowed → free → ¬ badArg → ¬ badSwitch → code = 5 →
      exec .clksel s = make { s.clock with
        switch := some ⟨.rcfM, BitVec.ofNat 5 factor, .waitReady⟩, timer := some 0, mult := ⟨.locking, .rcf, BitVec.ofNat 5 factor⟩ }) ∧
    (allowed → free → ¬ badArg → ¬ badSwitch → code = 6 →
      exec .clksel s = make { s.clock with
        switch := some ⟨.extM, BitVec.ofNat 5 factor, .waitReady⟩, timer := some 0
        mult := ⟨if s.clock.source = .ext ∧ s.clock.cond = .ready then .locking else .off, .xclk, BitVec.ofNat 5 factor⟩ })

/-- A READY switch is applied: its target is the current source, READY, CLKDONE is raised, and the multiplier goes OFF unless the target is
multiplied; a switch that waits, or none, changes nothing (R128, R129).  XCLK_CONTINUITY_READY and MULTIPLIER_LOCKED: a check of EXT ends READY; a
switch to EXT becomes READY; the multiplier starts LOCKING for EXT_M; the lock makes a check READY or the switch READY; a switch that becomes
READY in PASSIVE is applied (R121, R126, R128, R133, R134). -/
def Obligations.ClockSourcesBecomeReady : Prop :=
  (∀ s : State,
     (∀ target f, s.clock.switch = some ⟨target, f, .ready⟩ →
       applyReadySwitch s = (s.withClock { s.clock with
         source := target, cond := .ready, switch := none, timer := none
         mult := { s.clock.mult with state := if target = .rcfM ∨ target = .extM then s.clock.mult.state else .off } }).withCtl
         { s.ctl with events := s.ctl.events ||| 0x40 }) ∧
     (∀ target f, s.clock.switch = some ⟨target, f, .waitReady⟩ → applyReadySwitch s = s) ∧
     (s.clock.switch = none → applyReadySwitch s = s)) ∧
  (∀ s : State, s.pins.reset = false →
     let ready := fun (u : State) => Host.Outcome.next (if s.ctl.istate = .passive then applyReadySwitch u else u)
     let locking := s.withClock { s.clock with mult := { s.clock.mult with state := .locking, input := .xclk }, timer := some 1024 }
     let locked := { s.clock.mult with state := MultState.locked }
     (s.clock.isChecking = true → s.clock.source = .ext →
       exec .xclkContinuityReady s = .next (s.withClock { s.clock with cond := .ready, timer := none })) ∧
     (s.clock.isChecking = true → s.clock.source = .extM → s.clock.mult.state = .off →
       exec .xclkContinuityReady s = .next locking) ∧
     (s.clock.isChecking = false → ∀ f, s.clock.switch = some ⟨.ext, f, .waitReady⟩ →
       exec .xclkContinuityReady s =
         ready (s.withClock { s.clock with switch := some ⟨.ext, f, .ready⟩, timer := none })) ∧
     (s.clock.isChecking = false → ∀ f, s.clock.switch = some ⟨.extM, f, .waitReady⟩ → s.clock.mult.state = .off →
       exec .xclkContinuityReady s = .next locking) ∧
     (s.clock.mult.state = .locking → s.clock.isChecking = true →
       exec .multiplierLocked s = .next (s.withClock { s.clock with mult := locked, cond := .ready, timer := none })) ∧
     (s.clock.mult.state = .locking → s.clock.isChecking = false → ∀ target f, target = .rcfM ∨ target = .extM →
       s.clock.switch = some ⟨target, f, .waitReady⟩ →
       exec .multiplierLocked s =
         ready (s.withClock { s.clock with mult := locked, switch := some ⟨target, f, .ready⟩, timer := none })) ∧
     (s.clock.mult.state ≠ .locking → exec .multiplierLocked s = .next s))

/-- READINESS_TIMEOUT with the timer running: a failed strap check moves to RCB with CLKFAIL, a failed restart to RCB with CLKABORT, and a switch that
still waits is abandoned with CLKABORT; a READY switch does not time out (R127, R133, R134).  LOSS_OF_XCLK: an external source fails over to RCB with
CLKFAIL; a pending switch to an external target is abandoned with CLKABORT; a switch to an internal target stays pending; nothing happens where
nothing uses XCLK or while RESET# is asserted (R130 to R134). -/
def Obligations.TimeoutAndLossEndTheWait : Prop :=
  (∀ (s : State) (n : BitVec 14), s.clock.timer = some n →
     let off := fun (b : Bool) => { s.clock.mult with state := if b then .off else s.clock.mult.state }
     (s.clock.cond = .checking .strap →
       exec .readinessTimeout s = .next ((s.withClock { s.clock with
         source := .rcb, cond := .ready, timer := none, mult := off s.clock.source.multiplied }).withCtl
         { s.ctl with events := s.ctl.events ||| 0x100 })) ∧
     (s.clock.cond = .checking .restart →
       exec .readinessTimeout s = .next ((s.withClock { s.clock with
         source := .rcb, cond := .ready, timer := none, mult := off s.clock.source.multiplied }).withCtl
         { s.ctl with events := s.ctl.events ||| 0x80 })) ∧
     (s.clock.isChecking = false → ∀ target f, s.clock.switch = some ⟨target, f, .waitReady⟩ →
       exec .readinessTimeout s = .next ((s.withClock { s.clock with
         switch := none, timer := none, mult := off target.multiplied }).withCtl
         { s.ctl with events := s.ctl.events ||| 0x80 })) ∧
     (s.clock.isChecking = false → ∀ target f, s.clock.switch = some ⟨target, f, .ready⟩ → exec .readinessTimeout s = .next s)) ∧
  (∀ s : State,
     let off := fun (b : Bool) => { s.clock.mult with state := if b then .off else s.clock.mult.state }
     let external := s.clock.source = .ext ∨ s.clock.source = .extM
     (s.pins.reset = true → exec .lossOfXclk s = .next s) ∧
     (s.pins.reset = false → external → s.clock.cond = .ready →
       (s.clock.switch = none ∨ (∃ p, s.clock.switch = some p ∧ p.target ≠ .ext ∧ p.target ≠ .extM)) →
       exec .lossOfXclk s = .next ((s.withClock { s.clock with
         source := .rcb, cond := .ready, mult := off s.clock.source.multiplied }).withCtl
         { s.ctl with events := s.ctl.events ||| 0x100 })) ∧
     (s.pins.reset = false → external → s.clock.isChecking = true → s.clock.switch = none →
       exec .lossOfXclk s = .next ((s.withClock { s.clock with
         source := .rcb, cond := .ready, timer := none, mult := off s.clock.source.multiplied }).withCtl
         { s.ctl with events := s.ctl.events ||| 0x100 })) ∧
     (s.pins.reset = false → ¬ external → ∀ p, s.clock.switch = some p → p.target = .ext ∨ p.target = .extM →
       exec .lossOfXclk s = .next ((s.withClock { s.clock with
         switch := none, timer := none, mult := off p.target.multiplied }).withCtl
         { s.ctl with events := s.ctl.events ||| 0x80 })) ∧
     (s.pins.reset = false → external → s.clock.cond = .ready → ∀ p, s.clock.switch = some p → p.target = .ext ∨ p.target = .extM →
       exec .lossOfXclk s = .next ((s.withClock { s.clock with
         source := .rcb, cond := .ready, switch := none, timer := none
         mult := off (s.clock.source.multiplied || p.target.multiplied) }).withCtl
         { s.ctl with events := s.ctl.events ||| 0x180 })) ∧
     (s.clock.cond = .stopped ∨ ¬ external → s.clock.switch = none → exec .lossOfXclk s = .next s))

/-! ### Sections 8 and 9: states, commands and the setup record -/

/-- Setup validation (R139, R3, R89): the index that `engageFault` gives is that of the first check, in the order of the fields, that fails.  The wake
check makes the checks of fields 1 to 5 only, and the index that `wakeFault` gives is that of the first of these that fails (R146, R163). -/
def Obligations.EngageFindsTheFirstFault : Prop :=
  ∀ s : State,
    let f := fun i : Fin 17 => (s.ctl.setup.get i).toNat
    let page := 0x1F8000 + s.pins.cps.toNat * 0x1000
    let base := f 7 * 0x10000 + f 6
    let fails := fun i : Nat =>
      if i = 0 then f 0 % 4 = 0 ∨ f 0 / 256 % 4 = 3
      else if i = 1 then f 1 < 1 ∨ 256 < f 1
      else if i = 2 then f 2 < 1 ∨ 512 < f 2
      else if i = 3 then f 3 < 32 ∨ 4095 < f 3 ∨ f 3 < f 2 + 12
      else if i = 4 then f 4 < 1 ∨ 63 < f 4
      else if i = 5 then f 5 < 1 ∨ 255 < f 5
      else if i = 6 then ¬ f 6 % 4 = 0
      else if i = 7 then 31 < f 7 ∨ 0x200000 < base + 4 * f 1 ∨ (base < page + 0x1000 ∧ page < base + 4 * f 1)
      else if i = 9 ∨ i = 11 ∨ i = 13 ∨ i = 15 then
        let first := f (Fin.ofNat 17 (i - 1)) % 0x2000
        let last := f (Fin.ofNat 17 i) % 0x2000
        0x8000 ≤ f (Fin.ofNat 17 (i - 1)) ∧ (last < first ∨ (first * 256 < page + 0x1000 ∧ page ≤ last * 256))
      else False
    (engageFault s = none ↔ ∀ i, i < 16 → ¬ fails i) ∧
    (∀ i, engageFault s = some i ↔ (fails i.val ∧ ∀ j, j < i.val → ¬ fails j)) ∧
    (wakeFault s = none ↔ ∀ i, 1 ≤ i → i ≤ 5 → ¬ fails i) ∧
    (∀ i, wakeFault s = some i ↔
      (1 ≤ i.val ∧ i.val ≤ 5 ∧ fails i.val ∧ ∀ j, 1 ≤ j → j < i.val → ¬ fails j))

/-- ENGAGE at its take (R9, R98, R137, R139, R140): BADSTATE outside PASSIVE; BADSETUP with the setup fault index; otherwise STARTED: the mode in
force from MODE, frame count 0, base in force and staged base from TABLE_LO and TABLE_HI, STARTING. -/
def Obligations.EngageStartsThePart : Prop :=
  ∀ s : State, s.pins.reset = false →
    (s.ctl.istate ≠ .passive → exec .engage s = .next (recordCommand 0x5301 .badState s)) ∧
    (s.ctl.istate = .passive → ∀ i, engageFault s = some i →
      exec .engage s = .next (recordCommand 0x5301 .badSetup (s.withCtl { s.ctl with setupFault := some i }))) ∧
    (s.ctl.istate = .passive → engageFault s = none →
      let mode := s.ctl.setup.get 0
      exec .engage s = .next (recordCommand 0x5301 .started
        ((s.withCtl { s.ctl with
          istate := .starting, setupFault := none
          mode := ⟨if mode.toNat % 4 = 2 then .frame else if mode.toNat % 4 = 3 then .commit else .direct, mode.getLsbD 4,
            if mode.toNat / 256 % 4 = 1 then .leader else if mode.toNat / 256 % 4 = 2 then .follower else .none⟩ }).withScan
          { s.scan with
            frames := 0, stagedReady := false, stagedLo := s.ctl.setup.get 6, stagedHi := s.ctl.setup.get 7
            base := BitVec.ofNat 21 ((s.ctl.setup.get 7).toNat * 0x10000 + (s.ctl.setup.get 6).toNat) })))

/-- DISENGAGE and QUIESCE at their take, in each interposer state (R137, R138, R141, R142, R145). -/
def Obligations.DisengageAndQuiesceLeaveRunning : Prop :=
  ∀ s : State, s.pins.reset = false →
    let toState := fun i => s.withCtl { s.ctl with istate := i }
    (s.ctl.istate = .passive → exec .disengage s = .next (recordCommand 0x5302 .done s)) ∧
    (s.ctl.istate = .starting → exec .disengage s = .next (recordCommand 0x5302 .done (applyReadySwitch (toState .passive)))) ∧
    (s.ctl.istate = .running → exec .disengage s = .next (recordCommand 0x5302 .started (toState (.draining .passive false)))) ∧
    (s.ctl.istate.isDraining = true →
      exec .disengage s = .next (recordCommand 0x5302 .busy s) ∧ exec .quiesce s = .next (recordCommand 0x5303 .busy s)) ∧
    (s.ctl.istate = .dormant →
      exec .disengage s = .next (recordCommand 0x5302 .done ((toState .passive).withClock (restartClock s.clock)))) ∧
    (s.ctl.istate = .running → s.clock.switch = none →
      exec .quiesce s = .next (recordCommand 0x5303 .started (toState (.draining .dormant false)))) ∧
    (s.ctl.istate = .running → s.clock.switch ≠ none → exec .quiesce s = .next (recordCommand 0x5303 .busy s)) ∧
    (s.ctl.istate.passThrough = true → exec .quiesce s = .next (recordCommand 0x5303 .badState s))

/-- The restart of the current source on leaving DORMANT (R133).  RESUME at its take, and a WAKE arrival: in DORMANT the wake check on fields 1 to
5, then STARTING, or the setup fault index and REFUSED; a WAKE arrival changes no command record; in any other state the edge has no effect but on
the pin (R137, R146, R147). -/
def Obligations.WakeAndResumeLeaveDormant : Prop :=
  (∀ c : Clock,
     (c.source = .rcb ∨ c.source = .rcf ∨ c.source = .rcs → restartClock c = { c with cond := .ready }) ∧
     (c.source = .ext ∨ c.source = .extM → restartClock c = { c with cond := .checking .restart, timer := some 0 }) ∧
     (c.source = .rcfM → restartClock c = { c with
       cond := .checking .restart, timer := some 0, mult := { c.mult with state := .locking, input := .rcf } })) ∧
  (∀ s : State, s.pins.reset = false →
     let woken := fun u : State => (u.withCtl { u.ctl with istate := .starting, setupFault := none }).withClock (restartClock s.clock)
     let pin := s.withPins { s.pins with wake := true }
     (s.ctl.istate ≠ .dormant →
       exec .resume s = .next (recordCommand 0x5304 .badState s) ∧ exec .wakeArrival s = .next pin) ∧
     (s.ctl.istate = .dormant → wakeFault s = none →
       exec .resume s = .next (recordCommand 0x5304 .started (woken s)) ∧ exec .wakeArrival s = .next (woken pin)) ∧
     (∀ i, s.ctl.istate = .dormant → wakeFault s = some i →
       exec .resume s = .next (recordCommand 0x5304 .badSetup (s.withCtl { s.ctl with setupFault := some i })) ∧
       exec .wakeArrival s = .next (pin.withCtl { s.ctl with setupFault := some i, events := s.ctl.events ||| 0x800 })))

/-- Every command write is recorded at its take: code, result, count; REFUSED exactly where the result is neither DONE nor STARTED; an
UNKNOWN or MALFORMED write changes nothing else; a spill, a cut, a WAKE arrival and a setup-port write leave the record unchanged (R153 to R155). -/
def Obligations.EveryCommandWriteIsRecorded : Prop :=
  (∀ (s : State) (code : Word) (r : Result), recordCommand code r s = s.withCtl { s.ctl with
    lastCode := code, lastResult := r, count := s.ctl.count + 1
    events := if r = .done ∨ r = .started then s.ctl.events else s.ctl.events ||| 0x800 }) ∧
  (∀ (s : State) (c : Command), (runCommand c s).ctl.lastCode = c.code ∧ (runCommand c s).ctl.count = s.ctl.count + 1 ∧
    (runCommand c s).ctl.lastResult ≠ .none ∧ (runCommand c s).ctl.args = s.ctl.args) ∧
  (∀ (s : State) (code : Word), s.pins.reset = false → commandOfCode code = none →
    exec (.unknownCommand code) s = .next (recordCommand code .unknown s)) ∧
  (∀ (s : State) (data : Word) (lanes : Lanes), s.pins.reset = false → lanes.full = false →
    exec (.malformedCommand data lanes) s = .next (recordCommand
      (mkWord (if lanes.lane0 then data.extractLsb' 0 8 else 0) (if lanes.lane1 then data.extractLsb' 8 8 else 0)) .malformed s)) ∧
  (∀ (s u : State) (data : Word) (lanes : Lanes), u ∈ [spill s, cut s, wakeArrival s, setupWritten data lanes s] →
    u.ctl.lastCode = s.ctl.lastCode ∧ u.ctl.lastResult = s.ctl.lastResult ∧ u.ctl.count = s.ctl.count)

/-- While RESET# is asserted no command, argument or setup write is decoded (R8, R151). -/
def Obligations.NothingIsDecodedInReset : Prop :=
  ∀ s : State, s.pins.reset = true →
    (∀ c ∈ [Instr.engage, .disengage, .quiesce, .resume, .commit, .fill, .copy, .movestop, .clksel, .ack, .setptr],
      exec c s = .next s) ∧
    (∀ code, exec (.unknownCommand code) s = .next s) ∧ (∀ data lanes, exec (.malformedCommand data lanes) s = .next s) ∧
    (∀ n data lanes, exec (.argumentWrite n data lanes) s = .next s) ∧ (∀ data lanes, exec (.setupPortWrite data lanes) s = .next s)

/-- ACK clears every event bit that is set in both the event word and ARG0, keeps the others, ignores ARG0 bits 13 to 15, and is DONE in every
state with nothing else changed; an event raised after the ACK stays set, one raised before it is cleared where ARG0 names it, so IRQ# changes at
once (R156). -/
def Obligations.AckClearsTheBitsNamed : Prop :=
  ∀ s : State, s.pins.reset = false →
    let acked := s.withCtl { s.ctl with
      lastCode := 0x5340, lastResult := .done, count := s.ctl.count + 1
      events := s.ctl.events &&& ~~~((s.ctl.args.get 0).extractLsb' 0 13) }
    exec .ack s = .next acked ∧
    (∀ i, i < 13 → acked.ctl.events.getLsbD i = (s.ctl.events.getLsbD i && !(s.ctl.args.get 0).getLsbD i)) ∧
    (∀ e : Event, eventSet (raise e acked).ctl.events e = true) ∧
    (∀ (e : Event) (t : State), exec .ack (raise e s) = .next t →
      eventSet t.ctl.events e = !(s.ctl.args.get 0).getLsbD e.bit.val) ∧
    (irqAsserted acked = true ↔ ∃ i, i < 13 ∧ s.ctl.events.getLsbD i = true ∧ (s.ctl.args.get 0).getLsbD i = false ∧
      (s.ctl.setup.get 16).getLsbD i = true)

/-- SETPTR sets the setup pointer to ARG0 where that is 0 to 16, DONE; else BADARG and the pointer stays (R157).  The pointer serves setup-port
reads and writes. -/
def Obligations.SetptrSetsThePointer : Prop :=
  ∀ s : State, s.pins.reset = false →
    (∀ h : (s.ctl.args.get 0).toNat < 17,
      exec .setptr s = .next (s.withCtl { s.ctl with
        ptr := ⟨(s.ctl.args.get 0).toNat, h⟩, lastCode := 0x5341, lastResult := .done, count := s.ctl.count + 1 })) ∧
    (17 ≤ (s.ctl.args.get 0).toNat →
      exec .setptr s = .next (s.withCtl { s.ctl with
        lastCode := 0x5341, lastResult := .badArg, count := s.ctl.count + 1, events := s.ctl.events ||| 0x800 })) ∧
    interventionAnswer s .setupPort = s.ctl.setup.get s.ctl.ptr ∧
    (∀ v, (storeField v s).ctl.setup.get s.ctl.ptr = v ∧ ∀ i, i ≠ s.ctl.ptr → (storeField v s).ctl.setup.get i = s.ctl.setup.get i)

/-- ARGUMENT_WRITE: the latch changes in its enabled bytes and nothing else changes (R152). -/
def Obligations.ArgumentWriteSetsItsLatch : Prop :=
  ∀ (s : State) (n : Fin 6) (data : Word) (lanes : Lanes), s.pins.reset = false →
    ∃ args, exec (.argumentWrite n data lanes) s = .next (s.withCtl { s.ctl with args := args }) ∧
      (args.get n).extractLsb' 0 8 = (if lanes.lane0 then data else s.ctl.args.get n).extractLsb' 0 8 ∧
      (args.get n).extractLsb' 8 8 = (if lanes.lane1 then data else s.ctl.args.get n).extractLsb' 8 8 ∧
      ∀ m, m ≠ n → args.get m = s.ctl.args.get m

/-- SETUP_PORT_WRITE to a static field or EVENT_ENABLE, and a partial write (R158 to R161): a partial write raises REFUSED and changes nothing;
a static field takes the value in PASSIVE and DORMANT and is refused elsewhere; EVENT_ENABLE takes it in every state; the pointer advances
and stays at 16. -/
def Obligations.SetupPortWritesTheField : Prop :=
  ∀ (s : State) (data : Word) (lanes : Lanes), s.pins.reset = false →
    let static_ := s.ctl.ptr ≠ 6 ∧ s.ctl.ptr ≠ 7 ∧ s.ctl.ptr ≠ 16
    let quiet := s.ctl.istate = .passive ∨ s.ctl.istate = .dormant
    let next := if h : s.ctl.ptr.val + 1 < 17 then (⟨s.ctl.ptr.val + 1, h⟩ : Fin 17) else 16
    (lanes.full = false →
      exec (.setupPortWrite data lanes) s = .next (s.withCtl { s.ctl with events := s.ctl.events ||| 0x800 })) ∧
    (lanes.full = true → static_ → ¬ quiet →
      exec (.setupPortWrite data lanes) s =
        .next (s.withCtl { s.ctl with events := s.ctl.events ||| 0x800, ptr := next })) ∧
    (lanes.full = true → (static_ ∧ quiet) ∨ s.ctl.ptr = 16 →
      exec (.setupPortWrite data lanes) s =
        .next (s.withCtl { s.ctl with setup := s.ctl.setup.set s.ctl.ptr data, ptr := next }))

/-- A write of TABLE_LO or TABLE_HI (R98, R99): in PASSIVE and DORMANT it sets the half of both bases and clears the ready flag; in STARTING,
RUNNING and DRAINING TABLE_LO clears the flag, and TABLE_HI is checked: ready, or REFUSED. -/
def Obligations.TableBaseIsStaged : Prop :=
  ∀ (s : State) (v : Word), s.pins.reset = false →
    let quiet := s.ctl.istate = .passive ∨ s.ctl.istate = .dormant
    let stored := fun (p : Fin 17) => s.withCtl { s.ctl with setup := s.ctl.setup.set s.ctl.ptr v, ptr := p }
    let base := v.toNat * 0x10000 + s.scan.stagedLo.toNat
    let page := 0x1F8000 + s.pins.cps.toNat * 0x1000
    let passes := s.scan.stagedLo.toNat % 4 = 0 ∧ v.toNat ≤ 31 ∧ base + 4 * s.lines ≤ 0x200000 ∧
      (page + 0x1000 ≤ base ∨ base + 4 * s.lines ≤ page)
    (s.ctl.ptr = 6 → quiet →
      exec (.setupPortWrite v ⟨true, true⟩) s = .next ((stored 7).withScan { s.scan with
        stagedLo := v, stagedReady := false
        base := BitVec.ofNat 21 (s.scan.base.toNat / 0x10000 * 0x10000 + v.toNat / 4 * 4) })) ∧
    (s.ctl.ptr = 6 → ¬ quiet →
      exec (.setupPortWrite v ⟨true, true⟩) s = .next ((stored 7).withScan { s.scan with stagedLo := v, stagedReady := false })) ∧
    (s.ctl.ptr = 7 → quiet →
      exec (.setupPortWrite v ⟨true, true⟩) s = .next ((stored 8).withScan { s.scan with
        stagedHi := v, stagedReady := false
        base := BitVec.ofNat 21 (v.toNat % 32 * 0x10000 + s.scan.base.toNat % 0x10000) })) ∧
    (s.ctl.ptr = 7 → ¬ quiet → passes →
      exec (.setupPortWrite v ⟨true, true⟩) s = .next ((stored 8).withScan { s.scan with stagedHi := v, stagedReady := true })) ∧
    (s.ctl.ptr = 7 → ¬ quiet → ¬ passes →
      exec (.setupPortWrite v ⟨true, true⟩) s = .next
        (((stored 8).withCtl { (stored 8).ctl with events := s.ctl.events ||| 0x800 }).withScan
          { s.scan with stagedHi := v, stagedReady := false }))

/-- STATUS_WORD_WRITE: a host write at the word's address, carried to memory; in pass-through its enabled bytes are in memory and nothing else
changes, so every status word reads as before (R58, R171).  In RUNNING and DRAINING it is HOST_WRITE at that address: its data comes to memory by a
direct tenure or through the queue, and only the queue's own words change, 5 and 6, and in COMMIT mode, where it may make a spill, 7, 8 and 10.  Its
take is no command, argument or setup write in any state. -/
def Obligations.StatusWordWriteReachesMemoryOnly : Prop :=
  ∀ (s : State) (k : Fin 32) (data : Word) (lanes : Lanes),
    let a : WordAddr := BitVec.ofNat 20 (0xFC080 + s.pins.cps.toNat * 0x800 + k.val)
    exec (.statusWordWrite k data lanes) s = exec (.hostWrite a data lanes) s ∧
    controlWord s.pins.cps a = some (.status k) ∧ (∀ w : HostWrite, w.addr = a → controlTaken w s = s) ∧
    (sharing s = false → s.host.access.busy = false →
      ∃ t, exec (.statusWordWrite k data lanes) s = .next t ∧
        t = (s.withMem (Memory.writeLanes s.mem a (laneByte0 data lanes) (laneByte1 data lanes))).withHost ⟨.none, false, s.host.data⟩ ∧
        ∀ j, statusWord t j = statusWord s j) ∧
    (sharing s = true → s.host.access.busy = false →
      ∃ t, exec (.statusWordWrite k data lanes) s = .next t ∧ t.mem = s.mem ∧
        ∀ j : Fin 32, j.val < 5 ∨ j.val = 9 ∨ 10 < j.val ∨ (7 ≤ j.val ∧ s.ctl.mode.sharing ≠ .commit) →
          statusWord t j = statusWord s j)

/-- IRQ# is asserted exactly when some event bit is set whose EVENT_ENABLE bit is set, in every state; a reset clears the event word, so it
deasserts IRQ#, and keeps EVENT_ENABLE (R167). -/
def Obligations.IrqFollowsEnabledEvents : Prop :=
  (∀ s : State, irqAsserted s = true ↔ ∃ i, i < 13 ∧ s.ctl.events.getLsbD i = true ∧ (s.ctl.setup.get 16).getLsbD i = true) ∧
  (∀ (s : State) (cycle : BitVec 10) (done : Bool), s.pins.reset = false →
    ∃ t, exec (.resetAsserted cycle done) s = .next t ∧ irqAsserted t = false ∧ t.ctl.events = 0 ∧
      t.ctl.setup.get 16 = s.ctl.setup.get 16)

/-! ### Resets, straps and the minimum hold -/

/-- RESET_ASSERTED (R8, R9, R43, R75, R102, R118, R134, R149, R168): every block at its reset state at once, the setup record kept, the base from
it, the straps sampled, the queue discarded; with no tenure in progress and no access held memory is kept.  HWAIT is released at once also where an
intervention was in its minimum hold: the model's choice (log 23). -/
def Obligations.ResetAssertedClearsThePart : Prop :=
  ∀ (s : State) (cycle : BitVec 10) (done : Bool), s.pins.reset = false → ∃ t, exec (.resetAsserted cycle done) s = .next t ∧
    t.pending = s.pending ∧ t.queue = [] ∧ t.host.access = .none ∧ hwait t = false ∧ t.port = ⟨none, .hostNext⟩ ∧
    (let base := BitVec.ofNat 21 ((s.ctl.setup.get 7).toNat % 32 * 0x10000 + (s.ctl.setup.get 6).toNat / 4 * 4)
     t.scan =
      { state := .off, sub := .count, timer := 0, line := 0, gapCount := 0, ext := 0, frames := 0, base := base
        stagedLo := s.ctl.setup.get 6, stagedHi := s.ctl.setup.get 7, stagedReady := false, walk := base
        bufA := ⟨0, .dark, [], .empty, false, false⟩, bufB := ⟨0, .dark, [], .empty, false, false⟩, syncSeen := false
        fetchDue := none }) ∧
    t.panel = ⟨0, false, false, 0, false, false⟩ ∧ t.mover = ⟨false, .fill, .up, 0, 0, 0, 0, 0, false⟩ ∧
    t.clock = ⟨if s.pins.cksPins = 0 then .rcb else if s.pins.cksPins = 1 then .rcf else if s.pins.cksPins = 2 then .ext else .rcs,
      if s.pins.cksPins = 2 then .checking .strap else .ready, none, ⟨.off, .rcf, 0⟩, none⟩ ∧
    t.ctl =
      { istate := .passive, mode := ⟨.direct, false, .none⟩, setup := s.ctl.setup, ptr := 0, setupFault := none
        args := #v[0, 0, 0, 0, 0, 0], lastCode := 0, lastResult := .none, count := 0, events := 0 } ∧
    t.pins = ⟨true, s.pins.cpsPins, s.pins.cksPins, s.pins.cpsPins, s.pins.cksPins, s.pins.wake⟩ ∧
    (s.port.tenure = none → s.host.access = .none → t.mem = s.mem)

/-- What a reset completes and cuts short (R8, R43, R54, R75, R118).  `cut` is memory when the tenure in progress is cut: a retire tenure has done a
leading part of its writes, a FILL step its first words, a COPY step nothing in its read cycles and then its first words; a line fetch, a host read or
no tenure leaves memory as it was.  Whether the cut cycle completes is the command's operand, since those rules leave it open (log 10).  A host write
held, in its tenure, or taken and in its minimum hold (log 13) is then in memory with its bytes as presented.  A held read is answered with the memory
word at its own address, an intervention with the reset values; an intervention's hold ends at once (log 23). -/
def Obligations.ResetCompletesHeldWritesAndCutsTenures : Prop :=
  ∀ (s : State) (cycle : BitVec 10) (done : Bool), s.pins.reset = false →
    let n := cycle.toNat + if done then 1 else 0
    let served := s.host.access = .inTenure ∨ s.host.access = .handedOver
    let completed := fun (w : HostWrite) (m : Memory) =>
      Memory.writeLanes m w.addr (laneByte0 w.data w.lanes) (laneByte1 w.data w.lanes)
    ∃ t cut, exec (.resetAsserted cycle done) s = .next t ∧
      (∀ w, s.host.access = .writeHold w ∨ s.host.access = .writeClaim w ∨ (∃ why due, s.host.access = .writeWait w why due) →
        t.mem = completed w cut) ∧
      (∀ w, served → s.port.tenure = some (.hostWrite w) → t.mem = completed w cut) ∧
      ((∀ w, s.host.access ≠ .writeHold w ∧ s.host.access ≠ .writeClaim w ∧ ∀ why due, s.host.access ≠ .writeWait w why due) →
        (∀ w, s.port.tenure ≠ some (.hostWrite w)) → t.mem = cut) ∧
      (∀ a, s.host.access = .readHold a ∨ (∃ lanes, s.host.access = .readClaim a lanes) → t.host.data = Memory.readWord t.mem a) ∧
      (∀ a c l0 l1, served → s.port.tenure = some (.hostRead a c l0 l1) → t.host.data = Memory.readWord t.mem a) ∧
      (∀ c, s.host.access = .interventionHold c → t.host.data = interventionAnswer t c) ∧
      (s.port.tenure = none ∨ (∃ a c l0 l1, s.port.tenure = some (.hostRead a c l0 l1)) ∨
        (∃ line p, s.port.tenure = some (.lineFetch line p)) → cut = s.mem) ∧
      (∀ w, s.port.tenure = some (.hostWrite w) → cut = if n = 0 then s.mem else completed w s.mem) ∧
      (∀ e, s.port.tenure = some .retire → writingEntry s.queue = some e →
        cut = applyOps s.mem ((retireOps e).take n)) ∧
      (∀ k, s.port.tenure = some (.fillStep k) → PortSound s → Memory.wf s.mem = true → s.mover.dir = .up →
        s.mover.dst.toNat + s.mover.length.toNat ≤ 0x100000 → ∀ b, Memory.readByte cut b =
          if s.mover.dst.toNat + s.mover.done.toNat ≤ b / 2 ∧ b / 2 < s.mover.dst.toNat + s.mover.done.toNat + min n k then
            s.mover.pattern.extractLsb' (8 * (b % 2)) 8
          else Memory.readByte s.mem b) ∧
      (∀ k, s.port.tenure = some (.copyStep k) → PortSound s → Memory.wf s.mem = true →
        s.mover.dst.toNat + s.mover.length.toNat ≤ 0x100000 → s.mover.src.toNat + s.mover.length.toNat ≤ 0x100000 →
        let i := min (n - k) k
        let j0 := if s.mover.dir = .up then s.mover.done.toNat else s.mover.length.toNat - s.mover.done.toNat - i
        ∀ b, Memory.readByte cut b =
          if s.mover.dst.toNat + j0 ≤ b / 2 ∧ b / 2 < s.mover.dst.toNat + j0 + i then
            Memory.readByte s.mem (2 * (s.mover.src.toNat + (b / 2 - s.mover.dst.toNat)) + b % 2)
          else Memory.readByte s.mem b)

/-- RESET_RELEASED and STRAP_SAMPLING (R3, R134, R149): the release changes only the pin, and for a strapped EXT starts the check's timer; the
straps are sampled while RESET# is asserted, where they give the strap source, and not otherwise. -/
def Obligations.StrapsAreSampledInReset : Prop :=
  ∀ (s : State) (cps : BitVec 3) (cks : BitVec 2),
    (s.pins.reset = true →
      exec .resetReleased s = .next ((s.withPins { s.pins with reset := false }).withClock { s.clock with
        timer := if s.clock.cond = .checking .strap then some 0 else s.clock.timer }) ∧
      exec (.strapSampling cps cks) s = .next ((s.withPins { s.pins with
        cpsPins := cps, cksPins := cks, cps := cps, cks := cks }).withClock
        ⟨if cks = 0 then .rcb else if cks = 1 then .rcf else if cks = 2 then .ext else .rcs,
         if cks = 2 then .checking .strap else .ready, none, ⟨.off, .rcf, 0⟩, none⟩)) ∧
    (s.pins.reset = false →
      exec (.strapSampling cps cks) s = .next (s.withPins { s.pins with cpsPins := cps, cksPins := cks }))

/-- MINIMUM_HOLD_ELAPSED: an access that is answered or taken is released; one that still waits is marked; nothing else changes (R2, R52, R56).
HWAIT is asserted exactly while the part holds an access that was not handed over at the first cut: from the take of a read that is answered by
intervention or in RUNNING or DRAINING, and from the presentation of a write in RUNNING or DRAINING, also where the path opens in the hold (the model's
choice, log 24); it is not asserted for any other access over the
pass-through path, and it is released at the end of a host tenure (R1, R2, R7, R50, R72). -/
def Obligations.MinimumHoldReleasesTheHost : Prop :=
  (∀ s : State,
    (hwait s = true ↔ s.host.access ≠ .none ∧ s.host.access ≠ .handedOver) ∧
    (∀ a lanes cycle, s.host.access.busy = false → ∃ t, exec (.hostRead a lanes cycle) s = .next t ∧
      hwait t = (sharing s || (controlWord s.pins.cps a).any intervened)) ∧
    (∀ a data lanes, s.host.access.busy = false → ∃ t, exec (.hostWrite a data lanes) s = .next t ∧ hwait t = sharing s) ∧
    (∀ a c l0 l1 wake, s.port.tenure = some (.hostRead a c l0 l1) →
      ∃ t, exec (.hostReadTenureEnd wake) s = .next t ∧ hwait t = false) ∧
    (∀ w wake, s.port.tenure = some (.hostWrite w) →
      ∃ t, exec (.hostDirectWriteTenureEnd wake) s = .next t ∧ hwait t = false)) ∧
  ∀ s : State,
    (∀ a w c, s.host.access = .readHold a ∨ s.host.access = .writeHold w ∨ s.host.access = .interventionHold c →
      exec .minimumHoldElapsed s = .next (s.withHost { s.host with access := .none })) ∧
    (∀ a l w why due, s.host.access = .readClaim a l ∨ s.host.access = .writeClaim w ∨ s.host.access = .writeWait w why due ∨
      s.host.access = .inTenure → exec .minimumHoldElapsed s = .next (s.withHost { s.host with holdElapsed := true })) ∧
    (s.host.access = .none ∨ s.host.access = .handedOver → exec .minimumHoldElapsed s = .next s)

/-! ### Invariants -/

/-- Every step keeps the canonical form of memory: addresses rise, lie in memory, and no entry equals what an unlisted byte reads as.  The form is the
model's own, and what an unlisted byte reads as is its choice (log 2). -/
def Obligations.EveryStepKeepsMemoryCanonical : Prop :=
  ∀ s t : State, Memory.wf s.mem = true → step s = .next t → Memory.wf t.mem = true

/-- Every step keeps: while CLKFAIL is set the current source is internal and no external switch is pending (R131), with what that rests on. -/
def Obligations.EveryStepKeepsTheClockSound : Prop :=
  ∀ s t : State, ClockSound s → step s = .next t → ClockSound t

/-- Every step keeps the queue, the port, the mover and the scan sound: at most 64 entries in age order, one WRITING; the tenure and the block it
serves agree; the queue empty outside RUNNING and DRAINING; no RETIRING entry in SHOW (R17 to R20, R33, R38, R74, R76, R119). -/
def Obligations.EveryStepKeepsThePartSound : Prop :=
  ∀ s t : State, PartSound s → step s = .next t → PartSound t

/-- The end of a retire tenure changes the newest value of no byte (R51, R53). -/
def Obligations.RetirementKeepsTheNewestBytes : Prop :=
  ∀ s t : State, PartSound s → Memory.wf s.mem = true → s.port.tenure = some .retire → exec .retireTenureEnd s = .next t →
    ∀ a odd, resolvedByte t a odd = resolvedByte s a odd

end
end

