-- ==== Sys2Proof/Laws/State.lean ====
section
/-! SUPPORT. Laws/State.lean: one lemma per field per update of the state. -/

namespace Sys2Proof.Machine.State

@[simp] theorem withPending_pending (s : State) (x : List Instr) : (s.withPending x).pending = x := rfl
@[simp] theorem withPending_mem (s : State) (x : List Instr) : (s.withPending x).mem = s.mem := rfl
@[simp] theorem withPending_queue (s : State) (x : List Instr) : (s.withPending x).queue = s.queue := rfl
@[simp] theorem withPending_host (s : State) (x : List Instr) : (s.withPending x).host = s.host := rfl
@[simp] theorem withPending_port (s : State) (x : List Instr) : (s.withPending x).port = s.port := rfl
@[simp] theorem withPending_scan (s : State) (x : List Instr) : (s.withPending x).scan = s.scan := rfl
@[simp] theorem withPending_panel (s : State) (x : List Instr) : (s.withPending x).panel = s.panel := rfl
@[simp] theorem withPending_mover (s : State) (x : List Instr) : (s.withPending x).mover = s.mover := rfl
@[simp] theorem withPending_clock (s : State) (x : List Instr) : (s.withPending x).clock = s.clock := rfl
@[simp] theorem withPending_ctl (s : State) (x : List Instr) : (s.withPending x).ctl = s.ctl := rfl
@[simp] theorem withPending_pins (s : State) (x : List Instr) : (s.withPending x).pins = s.pins := rfl
@[simp] theorem withPending_free (s : State) (x : List Instr) : (s.withPending x).free = s.free := rfl

@[simp] theorem withMem_pending (s : State) (x : Memory) : (s.withMem x).pending = s.pending := rfl
@[simp] theorem withMem_mem (s : State) (x : Memory) : (s.withMem x).mem = x := rfl
@[simp] theorem withMem_queue (s : State) (x : Memory) : (s.withMem x).queue = s.queue := rfl
@[simp] theorem withMem_host (s : State) (x : Memory) : (s.withMem x).host = s.host := rfl
@[simp] theorem withMem_port (s : State) (x : Memory) : (s.withMem x).port = s.port := rfl
@[simp] theorem withMem_scan (s : State) (x : Memory) : (s.withMem x).scan = s.scan := rfl
@[simp] theorem withMem_panel (s : State) (x : Memory) : (s.withMem x).panel = s.panel := rfl
@[simp] theorem withMem_mover (s : State) (x : Memory) : (s.withMem x).mover = s.mover := rfl
@[simp] theorem withMem_clock (s : State) (x : Memory) : (s.withMem x).clock = s.clock := rfl
@[simp] theorem withMem_ctl (s : State) (x : Memory) : (s.withMem x).ctl = s.ctl := rfl
@[simp] theorem withMem_pins (s : State) (x : Memory) : (s.withMem x).pins = s.pins := rfl
@[simp] theorem withMem_free (s : State) (x : Memory) : (s.withMem x).free = s.free := rfl

@[simp] theorem withQueue_pending (s : State) (x : List Entry) : (s.withQueue x).pending = s.pending := rfl
@[simp] theorem withQueue_mem (s : State) (x : List Entry) : (s.withQueue x).mem = s.mem := rfl
@[simp] theorem withQueue_queue (s : State) (x : List Entry) : (s.withQueue x).queue = x := rfl
@[simp] theorem withQueue_host (s : State) (x : List Entry) : (s.withQueue x).host = s.host := rfl
@[simp] theorem withQueue_port (s : State) (x : List Entry) : (s.withQueue x).port = s.port := rfl
@[simp] theorem withQueue_scan (s : State) (x : List Entry) : (s.withQueue x).scan = s.scan := rfl
@[simp] theorem withQueue_panel (s : State) (x : List Entry) : (s.withQueue x).panel = s.panel := rfl
@[simp] theorem withQueue_mover (s : State) (x : List Entry) : (s.withQueue x).mover = s.mover := rfl
@[simp] theorem withQueue_clock (s : State) (x : List Entry) : (s.withQueue x).clock = s.clock := rfl
@[simp] theorem withQueue_ctl (s : State) (x : List Entry) : (s.withQueue x).ctl = s.ctl := rfl
@[simp] theorem withQueue_pins (s : State) (x : List Entry) : (s.withQueue x).pins = s.pins := rfl
@[simp] theorem withQueue_free (s : State) (x : List Entry) : (s.withQueue x).free = s.free := rfl

@[simp] theorem withHost_pending (s : State) (x : HostBus) : (s.withHost x).pending = s.pending := rfl
@[simp] theorem withHost_mem (s : State) (x : HostBus) : (s.withHost x).mem = s.mem := rfl
@[simp] theorem withHost_queue (s : State) (x : HostBus) : (s.withHost x).queue = s.queue := rfl
@[simp] theorem withHost_host (s : State) (x : HostBus) : (s.withHost x).host = x := rfl
@[simp] theorem withHost_port (s : State) (x : HostBus) : (s.withHost x).port = s.port := rfl
@[simp] theorem withHost_scan (s : State) (x : HostBus) : (s.withHost x).scan = s.scan := rfl
@[simp] theorem withHost_panel (s : State) (x : HostBus) : (s.withHost x).panel = s.panel := rfl
@[simp] theorem withHost_mover (s : State) (x : HostBus) : (s.withHost x).mover = s.mover := rfl
@[simp] theorem withHost_clock (s : State) (x : HostBus) : (s.withHost x).clock = s.clock := rfl
@[simp] theorem withHost_ctl (s : State) (x : HostBus) : (s.withHost x).ctl = s.ctl := rfl
@[simp] theorem withHost_pins (s : State) (x : HostBus) : (s.withHost x).pins = s.pins := rfl
@[simp] theorem withHost_free (s : State) (x : HostBus) : (s.withHost x).free = s.free := rfl

@[simp] theorem withPort_pending (s : State) (x : Port) : (s.withPort x).pending = s.pending := rfl
@[simp] theorem withPort_mem (s : State) (x : Port) : (s.withPort x).mem = s.mem := rfl
@[simp] theorem withPort_queue (s : State) (x : Port) : (s.withPort x).queue = s.queue := rfl
@[simp] theorem withPort_host (s : State) (x : Port) : (s.withPort x).host = s.host := rfl
@[simp] theorem withPort_port (s : State) (x : Port) : (s.withPort x).port = x := rfl
@[simp] theorem withPort_scan (s : State) (x : Port) : (s.withPort x).scan = s.scan := rfl
@[simp] theorem withPort_panel (s : State) (x : Port) : (s.withPort x).panel = s.panel := rfl
@[simp] theorem withPort_mover (s : State) (x : Port) : (s.withPort x).mover = s.mover := rfl
@[simp] theorem withPort_clock (s : State) (x : Port) : (s.withPort x).clock = s.clock := rfl
@[simp] theorem withPort_ctl (s : State) (x : Port) : (s.withPort x).ctl = s.ctl := rfl
@[simp] theorem withPort_pins (s : State) (x : Port) : (s.withPort x).pins = s.pins := rfl
@[simp] theorem withPort_free (s : State) (x : Port) : (s.withPort x).free = s.free := rfl

@[simp] theorem withScan_pending (s : State) (x : Scan) : (s.withScan x).pending = s.pending := rfl
@[simp] theorem withScan_mem (s : State) (x : Scan) : (s.withScan x).mem = s.mem := rfl
@[simp] theorem withScan_queue (s : State) (x : Scan) : (s.withScan x).queue = s.queue := rfl
@[simp] theorem withScan_host (s : State) (x : Scan) : (s.withScan x).host = s.host := rfl
@[simp] theorem withScan_port (s : State) (x : Scan) : (s.withScan x).port = s.port := rfl
@[simp] theorem withScan_scan (s : State) (x : Scan) : (s.withScan x).scan = x := rfl
@[simp] theorem withScan_panel (s : State) (x : Scan) : (s.withScan x).panel = s.panel := rfl
@[simp] theorem withScan_mover (s : State) (x : Scan) : (s.withScan x).mover = s.mover := rfl
@[simp] theorem withScan_clock (s : State) (x : Scan) : (s.withScan x).clock = s.clock := rfl
@[simp] theorem withScan_ctl (s : State) (x : Scan) : (s.withScan x).ctl = s.ctl := rfl
@[simp] theorem withScan_pins (s : State) (x : Scan) : (s.withScan x).pins = s.pins := rfl
@[simp] theorem withScan_free (s : State) (x : Scan) : (s.withScan x).free = s.free := rfl

@[simp] theorem withPanel_pending (s : State) (x : Panel) : (s.withPanel x).pending = s.pending := rfl
@[simp] theorem withPanel_mem (s : State) (x : Panel) : (s.withPanel x).mem = s.mem := rfl
@[simp] theorem withPanel_queue (s : State) (x : Panel) : (s.withPanel x).queue = s.queue := rfl
@[simp] theorem withPanel_host (s : State) (x : Panel) : (s.withPanel x).host = s.host := rfl
@[simp] theorem withPanel_port (s : State) (x : Panel) : (s.withPanel x).port = s.port := rfl
@[simp] theorem withPanel_scan (s : State) (x : Panel) : (s.withPanel x).scan = s.scan := rfl
@[simp] theorem withPanel_panel (s : State) (x : Panel) : (s.withPanel x).panel = x := rfl
@[simp] theorem withPanel_mover (s : State) (x : Panel) : (s.withPanel x).mover = s.mover := rfl
@[simp] theorem withPanel_clock (s : State) (x : Panel) : (s.withPanel x).clock = s.clock := rfl
@[simp] theorem withPanel_ctl (s : State) (x : Panel) : (s.withPanel x).ctl = s.ctl := rfl
@[simp] theorem withPanel_pins (s : State) (x : Panel) : (s.withPanel x).pins = s.pins := rfl
@[simp] theorem withPanel_free (s : State) (x : Panel) : (s.withPanel x).free = s.free := rfl

@[simp] theorem withMover_pending (s : State) (x : Mover) : (s.withMover x).pending = s.pending := rfl
@[simp] theorem withMover_mem (s : State) (x : Mover) : (s.withMover x).mem = s.mem := rfl
@[simp] theorem withMover_queue (s : State) (x : Mover) : (s.withMover x).queue = s.queue := rfl
@[simp] theorem withMover_host (s : State) (x : Mover) : (s.withMover x).host = s.host := rfl
@[simp] theorem withMover_port (s : State) (x : Mover) : (s.withMover x).port = s.port := rfl
@[simp] theorem withMover_scan (s : State) (x : Mover) : (s.withMover x).scan = s.scan := rfl
@[simp] theorem withMover_panel (s : State) (x : Mover) : (s.withMover x).panel = s.panel := rfl
@[simp] theorem withMover_mover (s : State) (x : Mover) : (s.withMover x).mover = x := rfl
@[simp] theorem withMover_clock (s : State) (x : Mover) : (s.withMover x).clock = s.clock := rfl
@[simp] theorem withMover_ctl (s : State) (x : Mover) : (s.withMover x).ctl = s.ctl := rfl
@[simp] theorem withMover_pins (s : State) (x : Mover) : (s.withMover x).pins = s.pins := rfl
@[simp] theorem withMover_free (s : State) (x : Mover) : (s.withMover x).free = s.free := rfl

@[simp] theorem withClock_pending (s : State) (x : Clock) : (s.withClock x).pending = s.pending := rfl
@[simp] theorem withClock_mem (s : State) (x : Clock) : (s.withClock x).mem = s.mem := rfl
@[simp] theorem withClock_queue (s : State) (x : Clock) : (s.withClock x).queue = s.queue := rfl
@[simp] theorem withClock_host (s : State) (x : Clock) : (s.withClock x).host = s.host := rfl
@[simp] theorem withClock_port (s : State) (x : Clock) : (s.withClock x).port = s.port := rfl
@[simp] theorem withClock_scan (s : State) (x : Clock) : (s.withClock x).scan = s.scan := rfl
@[simp] theorem withClock_panel (s : State) (x : Clock) : (s.withClock x).panel = s.panel := rfl
@[simp] theorem withClock_mover (s : State) (x : Clock) : (s.withClock x).mover = s.mover := rfl
@[simp] theorem withClock_clock (s : State) (x : Clock) : (s.withClock x).clock = x := rfl
@[simp] theorem withClock_ctl (s : State) (x : Clock) : (s.withClock x).ctl = s.ctl := rfl
@[simp] theorem withClock_pins (s : State) (x : Clock) : (s.withClock x).pins = s.pins := rfl
@[simp] theorem withClock_free (s : State) (x : Clock) : (s.withClock x).free = s.free := rfl

@[simp] theorem withCtl_pending (s : State) (x : Controller) : (s.withCtl x).pending = s.pending := rfl
@[simp] theorem withCtl_mem (s : State) (x : Controller) : (s.withCtl x).mem = s.mem := rfl
@[simp] theorem withCtl_queue (s : State) (x : Controller) : (s.withCtl x).queue = s.queue := rfl
@[simp] theorem withCtl_host (s : State) (x : Controller) : (s.withCtl x).host = s.host := rfl
@[simp] theorem withCtl_port (s : State) (x : Controller) : (s.withCtl x).port = s.port := rfl
@[simp] theorem withCtl_scan (s : State) (x : Controller) : (s.withCtl x).scan = s.scan := rfl
@[simp] theorem withCtl_panel (s : State) (x : Controller) : (s.withCtl x).panel = s.panel := rfl
@[simp] theorem withCtl_mover (s : State) (x : Controller) : (s.withCtl x).mover = s.mover := rfl
@[simp] theorem withCtl_clock (s : State) (x : Controller) : (s.withCtl x).clock = s.clock := rfl
@[simp] theorem withCtl_ctl (s : State) (x : Controller) : (s.withCtl x).ctl = x := rfl
@[simp] theorem withCtl_pins (s : State) (x : Controller) : (s.withCtl x).pins = s.pins := rfl
@[simp] theorem withCtl_free (s : State) (x : Controller) : (s.withCtl x).free = s.free := rfl

@[simp] theorem withPins_pending (s : State) (x : Pins) : (s.withPins x).pending = s.pending := rfl
@[simp] theorem withPins_mem (s : State) (x : Pins) : (s.withPins x).mem = s.mem := rfl
@[simp] theorem withPins_queue (s : State) (x : Pins) : (s.withPins x).queue = s.queue := rfl
@[simp] theorem withPins_host (s : State) (x : Pins) : (s.withPins x).host = s.host := rfl
@[simp] theorem withPins_port (s : State) (x : Pins) : (s.withPins x).port = s.port := rfl
@[simp] theorem withPins_scan (s : State) (x : Pins) : (s.withPins x).scan = s.scan := rfl
@[simp] theorem withPins_panel (s : State) (x : Pins) : (s.withPins x).panel = s.panel := rfl
@[simp] theorem withPins_mover (s : State) (x : Pins) : (s.withPins x).mover = s.mover := rfl
@[simp] theorem withPins_clock (s : State) (x : Pins) : (s.withPins x).clock = s.clock := rfl
@[simp] theorem withPins_ctl (s : State) (x : Pins) : (s.withPins x).ctl = s.ctl := rfl
@[simp] theorem withPins_pins (s : State) (x : Pins) : (s.withPins x).pins = x := rfl
@[simp] theorem withPins_free (s : State) (x : Pins) : (s.withPins x).free = s.free := rfl

@[simp] theorem withFree_pending (s : State) (x : Nat) : (s.withFree x).pending = s.pending := rfl
@[simp] theorem withFree_mem (s : State) (x : Nat) : (s.withFree x).mem = s.mem := rfl
@[simp] theorem withFree_queue (s : State) (x : Nat) : (s.withFree x).queue = s.queue := rfl
@[simp] theorem withFree_host (s : State) (x : Nat) : (s.withFree x).host = s.host := rfl
@[simp] theorem withFree_port (s : State) (x : Nat) : (s.withFree x).port = s.port := rfl
@[simp] theorem withFree_scan (s : State) (x : Nat) : (s.withFree x).scan = s.scan := rfl
@[simp] theorem withFree_panel (s : State) (x : Nat) : (s.withFree x).panel = s.panel := rfl
@[simp] theorem withFree_mover (s : State) (x : Nat) : (s.withFree x).mover = s.mover := rfl
@[simp] theorem withFree_clock (s : State) (x : Nat) : (s.withFree x).clock = s.clock := rfl
@[simp] theorem withFree_ctl (s : State) (x : Nat) : (s.withFree x).ctl = s.ctl := rfl
@[simp] theorem withFree_pins (s : State) (x : Nat) : (s.withFree x).pins = s.pins := rfl
@[simp] theorem withFree_free (s : State) (x : Nat) : (s.withFree x).free = x := rfl

@[simp] theorem withPending_withPending (s : State) (x y : List Instr) : (s.withPending x).withPending y = s.withPending y := rfl
@[simp] theorem withMem_withMem (s : State) (x y : Memory) : (s.withMem x).withMem y = s.withMem y := rfl
@[simp] theorem withQueue_withQueue (s : State) (x y : List Entry) : (s.withQueue x).withQueue y = s.withQueue y := rfl
@[simp] theorem withHost_withHost (s : State) (x y : HostBus) : (s.withHost x).withHost y = s.withHost y := rfl
@[simp] theorem withPort_withPort (s : State) (x y : Port) : (s.withPort x).withPort y = s.withPort y := rfl
@[simp] theorem withScan_withScan (s : State) (x y : Scan) : (s.withScan x).withScan y = s.withScan y := rfl
@[simp] theorem withPanel_withPanel (s : State) (x y : Panel) : (s.withPanel x).withPanel y = s.withPanel y := rfl
@[simp] theorem withMover_withMover (s : State) (x y : Mover) : (s.withMover x).withMover y = s.withMover y := rfl
@[simp] theorem withClock_withClock (s : State) (x y : Clock) : (s.withClock x).withClock y = s.withClock y := rfl
@[simp] theorem withCtl_withCtl (s : State) (x y : Controller) : (s.withCtl x).withCtl y = s.withCtl y := rfl
@[simp] theorem withPins_withPins (s : State) (x y : Pins) : (s.withPins x).withPins y = s.withPins y := rfl
@[simp] theorem withFree_withFree (s : State) (x y : Nat) : (s.withFree x).withFree y = s.withFree y := rfl

end Sys2Proof.Machine.State
end

