-- ==== Sys2Proof/Laws/Frames.lean ====
section
/-! SUPPORT. Laws/Frames.lean: which parts of the state each shared operation leaves as they are. -/

namespace Sys2Proof.Machine

@[simp] theorem raise_pending (e : Event) (s : State) : (raise e s).pending = s.pending := rfl
@[simp] theorem raise_mem (e : Event) (s : State) : (raise e s).mem = s.mem := rfl
@[simp] theorem raise_queue (e : Event) (s : State) : (raise e s).queue = s.queue := rfl
@[simp] theorem raise_host (e : Event) (s : State) : (raise e s).host = s.host := rfl
@[simp] theorem raise_port (e : Event) (s : State) : (raise e s).port = s.port := rfl
@[simp] theorem raise_scan (e : Event) (s : State) : (raise e s).scan = s.scan := rfl
@[simp] theorem raise_panel (e : Event) (s : State) : (raise e s).panel = s.panel := rfl
@[simp] theorem raise_mover (e : Event) (s : State) : (raise e s).mover = s.mover := rfl
@[simp] theorem raise_clock (e : Event) (s : State) : (raise e s).clock = s.clock := rfl
@[simp] theorem raise_pins (e : Event) (s : State) : (raise e s).pins = s.pins := rfl
@[simp] theorem raise_free (e : Event) (s : State) : (raise e s).free = s.free := rfl

@[simp] theorem raiseIf_pending (c : Bool) (e : Event) (s : State) : (raiseIf c e s).pending = s.pending := by
  unfold raiseIf; split <;> rfl
@[simp] theorem raiseIf_mem (c : Bool) (e : Event) (s : State) : (raiseIf c e s).mem = s.mem := by
  unfold raiseIf; split <;> rfl
@[simp] theorem raiseIf_queue (c : Bool) (e : Event) (s : State) : (raiseIf c e s).queue = s.queue := by
  unfold raiseIf; split <;> rfl
@[simp] theorem raiseIf_host (c : Bool) (e : Event) (s : State) : (raiseIf c e s).host = s.host := by
  unfold raiseIf; split <;> rfl
@[simp] theorem raiseIf_port (c : Bool) (e : Event) (s : State) : (raiseIf c e s).port = s.port := by
  unfold raiseIf; split <;> rfl
@[simp] theorem raiseIf_scan (c : Bool) (e : Event) (s : State) : (raiseIf c e s).scan = s.scan := by
  unfold raiseIf; split <;> rfl
@[simp] theorem raiseIf_panel (c : Bool) (e : Event) (s : State) : (raiseIf c e s).panel = s.panel := by
  unfold raiseIf; split <;> rfl
@[simp] theorem raiseIf_mover (c : Bool) (e : Event) (s : State) : (raiseIf c e s).mover = s.mover := by
  unfold raiseIf; split <;> rfl
@[simp] theorem raiseIf_clock (c : Bool) (e : Event) (s : State) : (raiseIf c e s).clock = s.clock := by
  unfold raiseIf; split <;> rfl
@[simp] theorem raiseIf_pins (c : Bool) (e : Event) (s : State) : (raiseIf c e s).pins = s.pins := by
  unfold raiseIf; split <;> rfl
@[simp] theorem raiseIf_free (c : Bool) (e : Event) (s : State) : (raiseIf c e s).free = s.free := by
  unfold raiseIf; split <;> rfl

@[simp] theorem recordCommand_pending (code : Word) (r : Result) (s : State) : (recordCommand code r s).pending = s.pending := by
  simp [recordCommand]
@[simp] theorem recordCommand_mem (code : Word) (r : Result) (s : State) : (recordCommand code r s).mem = s.mem := by
  simp [recordCommand]
@[simp] theorem recordCommand_queue (code : Word) (r : Result) (s : State) : (recordCommand code r s).queue = s.queue := by
  simp [recordCommand]
@[simp] theorem recordCommand_host (code : Word) (r : Result) (s : State) : (recordCommand code r s).host = s.host := by
  simp [recordCommand]
@[simp] theorem recordCommand_port (code : Word) (r : Result) (s : State) : (recordCommand code r s).port = s.port := by
  simp [recordCommand]
@[simp] theorem recordCommand_scan (code : Word) (r : Result) (s : State) : (recordCommand code r s).scan = s.scan := by
  simp [recordCommand]
@[simp] theorem recordCommand_panel (code : Word) (r : Result) (s : State) : (recordCommand code r s).panel = s.panel := by
  simp [recordCommand]
@[simp] theorem recordCommand_mover (code : Word) (r : Result) (s : State) : (recordCommand code r s).mover = s.mover := by
  simp [recordCommand]
@[simp] theorem recordCommand_clock (code : Word) (r : Result) (s : State) : (recordCommand code r s).clock = s.clock := by
  simp [recordCommand]
@[simp] theorem recordCommand_pins (code : Word) (r : Result) (s : State) : (recordCommand code r s).pins = s.pins := by
  simp [recordCommand]
@[simp] theorem recordCommand_free (code : Word) (r : Result) (s : State) : (recordCommand code r s).free = s.free := by
  simp [recordCommand]

@[simp] theorem noteWait_pending (left retired : Bool) (s : State) : (noteWait left retired s).pending = s.pending := by
  unfold noteWait; split <;> rfl
@[simp] theorem noteWait_mem (left retired : Bool) (s : State) : (noteWait left retired s).mem = s.mem := by
  unfold noteWait; split <;> rfl
@[simp] theorem noteWait_queue (left retired : Bool) (s : State) : (noteWait left retired s).queue = s.queue := by
  unfold noteWait; split <;> rfl
@[simp] theorem noteWait_port (left retired : Bool) (s : State) : (noteWait left retired s).port = s.port := by
  unfold noteWait; split <;> rfl
@[simp] theorem noteWait_scan (left retired : Bool) (s : State) : (noteWait left retired s).scan = s.scan := by
  unfold noteWait; split <;> rfl
@[simp] theorem noteWait_panel (left retired : Bool) (s : State) : (noteWait left retired s).panel = s.panel := by
  unfold noteWait; split <;> rfl
@[simp] theorem noteWait_mover (left retired : Bool) (s : State) : (noteWait left retired s).mover = s.mover := by
  unfold noteWait; split <;> rfl
@[simp] theorem noteWait_clock (left retired : Bool) (s : State) : (noteWait left retired s).clock = s.clock := by
  unfold noteWait; split <;> rfl
@[simp] theorem noteWait_ctl (left retired : Bool) (s : State) : (noteWait left retired s).ctl = s.ctl := by
  unfold noteWait; split <;> rfl
@[simp] theorem noteWait_pins (left retired : Bool) (s : State) : (noteWait left retired s).pins = s.pins := by
  unfold noteWait; split <;> rfl
@[simp] theorem noteWait_free (left retired : Bool) (s : State) : (noteWait left retired s).free = s.free := by
  unfold noteWait; split <;> rfl

@[simp] theorem endTenure_pending (s : State) : (endTenure s).pending = s.pending := rfl
@[simp] theorem endTenure_mem (s : State) : (endTenure s).mem = s.mem := rfl
@[simp] theorem endTenure_queue (s : State) : (endTenure s).queue = s.queue := rfl
@[simp] theorem endTenure_host (s : State) : (endTenure s).host = s.host := rfl
@[simp] theorem endTenure_scan (s : State) : (endTenure s).scan = s.scan := rfl
@[simp] theorem endTenure_panel (s : State) : (endTenure s).panel = s.panel := rfl
@[simp] theorem endTenure_mover (s : State) : (endTenure s).mover = s.mover := rfl
@[simp] theorem endTenure_clock (s : State) : (endTenure s).clock = s.clock := rfl
@[simp] theorem endTenure_ctl (s : State) : (endTenure s).ctl = s.ctl := rfl
@[simp] theorem endTenure_pins (s : State) : (endTenure s).pins = s.pins := rfl
@[simp] theorem endTenure_free (s : State) : (endTenure s).free = s.free := rfl

@[simp] theorem grantFetch_pending (line : BitVec 8) (s : State) : (grantFetch line s).pending = s.pending := rfl
@[simp] theorem grantFetch_mem (line : BitVec 8) (s : State) : (grantFetch line s).mem = s.mem := rfl
@[simp] theorem grantFetch_queue (line : BitVec 8) (s : State) : (grantFetch line s).queue = s.queue := rfl
@[simp] theorem grantFetch_host (line : BitVec 8) (s : State) : (grantFetch line s).host = s.host := rfl
@[simp] theorem grantFetch_panel (line : BitVec 8) (s : State) : (grantFetch line s).panel = s.panel := rfl
@[simp] theorem grantFetch_mover (line : BitVec 8) (s : State) : (grantFetch line s).mover = s.mover := rfl
@[simp] theorem grantFetch_clock (line : BitVec 8) (s : State) : (grantFetch line s).clock = s.clock := rfl
@[simp] theorem grantFetch_ctl (line : BitVec 8) (s : State) : (grantFetch line s).ctl = s.ctl := rfl
@[simp] theorem grantFetch_pins (line : BitVec 8) (s : State) : (grantFetch line s).pins = s.pins := rfl
@[simp] theorem grantFetch_free (line : BitVec 8) (s : State) : (grantFetch line s).free = s.free := rfl

@[simp] theorem grantHost_pending (s : State) : (grantHost s).pending = s.pending := by
  unfold grantHost; split <;> rfl
@[simp] theorem grantHost_mem (s : State) : (grantHost s).mem = s.mem := by
  unfold grantHost; split <;> rfl
@[simp] theorem grantHost_queue (s : State) : (grantHost s).queue = s.queue := by
  unfold grantHost; split <;> rfl
@[simp] theorem grantHost_scan (s : State) : (grantHost s).scan = s.scan := by
  unfold grantHost; split <;> rfl
@[simp] theorem grantHost_panel (s : State) : (grantHost s).panel = s.panel := by
  unfold grantHost; split <;> rfl
@[simp] theorem grantHost_mover (s : State) : (grantHost s).mover = s.mover := by
  unfold grantHost; split <;> rfl
@[simp] theorem grantHost_clock (s : State) : (grantHost s).clock = s.clock := by
  unfold grantHost; split <;> rfl
@[simp] theorem grantHost_ctl (s : State) : (grantHost s).ctl = s.ctl := by
  unfold grantHost; split <;> rfl
@[simp] theorem grantHost_pins (s : State) : (grantHost s).pins = s.pins := by
  unfold grantHost; split <;> rfl
@[simp] theorem grantHost_free (s : State) : (grantHost s).free = s.free := by
  unfold grantHost; split <;> rfl

@[simp] theorem grantRetire_pending (s : State) : (grantRetire s).pending = s.pending := rfl
@[simp] theorem grantRetire_mem (s : State) : (grantRetire s).mem = s.mem := rfl
@[simp] theorem grantRetire_host (s : State) : (grantRetire s).host = s.host := rfl
@[simp] theorem grantRetire_scan (s : State) : (grantRetire s).scan = s.scan := rfl
@[simp] theorem grantRetire_panel (s : State) : (grantRetire s).panel = s.panel := rfl
@[simp] theorem grantRetire_mover (s : State) : (grantRetire s).mover = s.mover := rfl
@[simp] theorem grantRetire_clock (s : State) : (grantRetire s).clock = s.clock := rfl
@[simp] theorem grantRetire_ctl (s : State) : (grantRetire s).ctl = s.ctl := rfl
@[simp] theorem grantRetire_pins (s : State) : (grantRetire s).pins = s.pins := rfl
@[simp] theorem grantRetire_free (s : State) : (grantRetire s).free = s.free := rfl

@[simp] theorem grantStep_pending (s : State) : (grantStep s).pending = s.pending := rfl
@[simp] theorem grantStep_mem (s : State) : (grantStep s).mem = s.mem := rfl
@[simp] theorem grantStep_queue (s : State) : (grantStep s).queue = s.queue := rfl
@[simp] theorem grantStep_host (s : State) : (grantStep s).host = s.host := rfl
@[simp] theorem grantStep_scan (s : State) : (grantStep s).scan = s.scan := rfl
@[simp] theorem grantStep_panel (s : State) : (grantStep s).panel = s.panel := rfl
@[simp] theorem grantStep_mover (s : State) : (grantStep s).mover = s.mover := rfl
@[simp] theorem grantStep_clock (s : State) : (grantStep s).clock = s.clock := rfl
@[simp] theorem grantStep_ctl (s : State) : (grantStep s).ctl = s.ctl := rfl
@[simp] theorem grantStep_pins (s : State) : (grantStep s).pins = s.pins := rfl
@[simp] theorem grantStep_free (s : State) : (grantStep s).free = s.free := rfl

@[simp] theorem grantOther_pending (s : State) : (grantOther s).pending = s.pending := by
  unfold grantOther; (repeat' split) <;> simp
@[simp] theorem grantOther_mem (s : State) : (grantOther s).mem = s.mem := by
  unfold grantOther; (repeat' split) <;> simp
@[simp] theorem grantOther_scan (s : State) : (grantOther s).scan = s.scan := by
  unfold grantOther; (repeat' split) <;> simp
@[simp] theorem grantOther_panel (s : State) : (grantOther s).panel = s.panel := by
  unfold grantOther; (repeat' split) <;> simp
@[simp] theorem grantOther_mover (s : State) : (grantOther s).mover = s.mover := by
  unfold grantOther; (repeat' split) <;> simp
@[simp] theorem grantOther_clock (s : State) : (grantOther s).clock = s.clock := by
  unfold grantOther; (repeat' split) <;> simp
@[simp] theorem grantOther_ctl (s : State) : (grantOther s).ctl = s.ctl := by
  unfold grantOther; (repeat' split) <;> simp
@[simp] theorem grantOther_pins (s : State) : (grantOther s).pins = s.pins := by
  unfold grantOther; (repeat' split) <;> simp
@[simp] theorem grantOther_free (s : State) : (grantOther s).free = s.free := by
  unfold grantOther; (repeat' split) <;> simp

@[simp] theorem settle_pending (s : State) : (settle s).pending = s.pending := by
  unfold settle; (repeat' split) <;> simp
@[simp] theorem settle_mem (s : State) : (settle s).mem = s.mem := by
  unfold settle; (repeat' split) <;> simp
@[simp] theorem settle_panel (s : State) : (settle s).panel = s.panel := by
  unfold settle; (repeat' split) <;> simp
@[simp] theorem settle_mover (s : State) : (settle s).mover = s.mover := by
  unfold settle; (repeat' split) <;> simp
@[simp] theorem settle_clock (s : State) : (settle s).clock = s.clock := by
  unfold settle; (repeat' split) <;> simp
@[simp] theorem settle_ctl (s : State) : (settle s).ctl = s.ctl := by
  unfold settle; (repeat' split) <;> simp
@[simp] theorem settle_pins (s : State) : (settle s).pins = s.pins := by
  unfold settle; (repeat' split) <;> simp
@[simp] theorem settle_free (s : State) : (settle s).free = s.free := by
  unfold settle; (repeat' split) <;> simp

@[simp] theorem fill_pending (s : State) : (fill s).pending = s.pending := by
  simp only [fill]; (repeat' split) <;> first | rfl | simp
@[simp] theorem fill_mem (s : State) : (fill s).mem = s.mem := by
  simp only [fill]; (repeat' split) <;> first | rfl | simp
@[simp] theorem fill_queue (s : State) : (fill s).queue = s.queue := by
  simp only [fill]; (repeat' split) <;> first | rfl | simp
@[simp] theorem fill_host (s : State) : (fill s).host = s.host := by
  simp only [fill]; (repeat' split) <;> first | rfl | simp
@[simp] theorem fill_port (s : State) : (fill s).port = s.port := by
  simp only [fill]; (repeat' split) <;> first | rfl | simp
@[simp] theorem fill_scan (s : State) : (fill s).scan = s.scan := by
  simp only [fill]; (repeat' split) <;> first | rfl | simp
@[simp] theorem fill_panel (s : State) : (fill s).panel = s.panel := by
  simp only [fill]; (repeat' split) <;> first | rfl | simp
@[simp] theorem fill_clock (s : State) : (fill s).clock = s.clock := by
  simp only [fill]; (repeat' split) <;> first | rfl | simp
@[simp] theorem fill_pins (s : State) : (fill s).pins = s.pins := by
  simp only [fill]; (repeat' split) <;> first | rfl | simp
@[simp] theorem fill_free (s : State) : (fill s).free = s.free := by
  simp only [fill]; (repeat' split) <;> first | rfl | simp

@[simp] theorem copy_pending (s : State) : (copy s).pending = s.pending := by
  simp only [copy]; (repeat' split) <;> first | rfl | simp
@[simp] theorem copy_mem (s : State) : (copy s).mem = s.mem := by
  simp only [copy]; (repeat' split) <;> first | rfl | simp
@[simp] theorem copy_queue (s : State) : (copy s).queue = s.queue := by
  simp only [copy]; (repeat' split) <;> first | rfl | simp
@[simp] theorem copy_host (s : State) : (copy s).host = s.host := by
  simp only [copy]; (repeat' split) <;> first | rfl | simp
@[simp] theorem copy_port (s : State) : (copy s).port = s.port := by
  simp only [copy]; (repeat' split) <;> first | rfl | simp
@[simp] theorem copy_scan (s : State) : (copy s).scan = s.scan := by
  simp only [copy]; (repeat' split) <;> first | rfl | simp
@[simp] theorem copy_panel (s : State) : (copy s).panel = s.panel := by
  simp only [copy]; (repeat' split) <;> first | rfl | simp
@[simp] theorem copy_clock (s : State) : (copy s).clock = s.clock := by
  simp only [copy]; (repeat' split) <;> first | rfl | simp
@[simp] theorem copy_pins (s : State) : (copy s).pins = s.pins := by
  simp only [copy]; (repeat' split) <;> first | rfl | simp
@[simp] theorem copy_free (s : State) : (copy s).free = s.free := by
  simp only [copy]; (repeat' split) <;> first | rfl | simp

@[simp] theorem moverEnds_pending (e : Event) (s : State) : (moverEnds e s).pending = s.pending := by
  simp [moverEnds]
@[simp] theorem moverEnds_mem (e : Event) (s : State) : (moverEnds e s).mem = s.mem := by
  simp [moverEnds]
@[simp] theorem moverEnds_queue (e : Event) (s : State) : (moverEnds e s).queue = s.queue := by
  simp [moverEnds]
@[simp] theorem moverEnds_port (e : Event) (s : State) : (moverEnds e s).port = s.port := by
  simp [moverEnds]
@[simp] theorem moverEnds_scan (e : Event) (s : State) : (moverEnds e s).scan = s.scan := by
  simp [moverEnds]
@[simp] theorem moverEnds_panel (e : Event) (s : State) : (moverEnds e s).panel = s.panel := by
  simp [moverEnds]
@[simp] theorem moverEnds_clock (e : Event) (s : State) : (moverEnds e s).clock = s.clock := by
  simp [moverEnds]
@[simp] theorem moverEnds_pins (e : Event) (s : State) : (moverEnds e s).pins = s.pins := by
  simp [moverEnds]
@[simp] theorem moverEnds_free (e : Event) (s : State) : (moverEnds e s).free = s.free := by
  simp [moverEnds]

@[simp] theorem stepEnded_pending (k : Nat) (s : State) : (stepEnded k s).pending = s.pending := by
  simp only [stepEnded]; (repeat' split) <;> first | rfl | simp
@[simp] theorem stepEnded_mem (k : Nat) (s : State) : (stepEnded k s).mem = s.mem := by
  simp only [stepEnded]; (repeat' split) <;> first | rfl | simp
@[simp] theorem stepEnded_queue (k : Nat) (s : State) : (stepEnded k s).queue = s.queue := by
  simp only [stepEnded]; (repeat' split) <;> first | rfl | simp
@[simp] theorem stepEnded_port (k : Nat) (s : State) : (stepEnded k s).port = s.port := by
  simp only [stepEnded]; (repeat' split) <;> first | rfl | simp
@[simp] theorem stepEnded_scan (k : Nat) (s : State) : (stepEnded k s).scan = s.scan := by
  simp only [stepEnded]; (repeat' split) <;> first | rfl | simp
@[simp] theorem stepEnded_panel (k : Nat) (s : State) : (stepEnded k s).panel = s.panel := by
  simp only [stepEnded]; (repeat' split) <;> first | rfl | simp
@[simp] theorem stepEnded_clock (k : Nat) (s : State) : (stepEnded k s).clock = s.clock := by
  simp only [stepEnded]; (repeat' split) <;> first | rfl | simp
@[simp] theorem stepEnded_pins (k : Nat) (s : State) : (stepEnded k s).pins = s.pins := by
  simp only [stepEnded]; (repeat' split) <;> first | rfl | simp
@[simp] theorem stepEnded_free (k : Nat) (s : State) : (stepEnded k s).free = s.free := by
  simp only [stepEnded]; (repeat' split) <;> first | rfl | simp

@[simp] theorem movestop_pending (s : State) : (movestop s).pending = s.pending := by
  unfold movestop; (repeat' split) <;> simp
@[simp] theorem movestop_mem (s : State) : (movestop s).mem = s.mem := by
  unfold movestop; (repeat' split) <;> simp
@[simp] theorem movestop_queue (s : State) : (movestop s).queue = s.queue := by
  unfold movestop; (repeat' split) <;> simp
@[simp] theorem movestop_port (s : State) : (movestop s).port = s.port := by
  unfold movestop; (repeat' split) <;> simp
@[simp] theorem movestop_scan (s : State) : (movestop s).scan = s.scan := by
  unfold movestop; (repeat' split) <;> simp
@[simp] theorem movestop_panel (s : State) : (movestop s).panel = s.panel := by
  unfold movestop; (repeat' split) <;> simp
@[simp] theorem movestop_clock (s : State) : (movestop s).clock = s.clock := by
  unfold movestop; (repeat' split) <;> simp
@[simp] theorem movestop_pins (s : State) : (movestop s).pins = s.pins := by
  unfold movestop; (repeat' split) <;> simp
@[simp] theorem movestop_free (s : State) : (movestop s).free = s.free := by
  unfold movestop; (repeat' split) <;> simp

@[simp] theorem applyReadySwitch_pending (s : State) : (applyReadySwitch s).pending = s.pending := by
  unfold applyReadySwitch; split <;> rfl
@[simp] theorem applyReadySwitch_mem (s : State) : (applyReadySwitch s).mem = s.mem := by
  unfold applyReadySwitch; split <;> rfl
@[simp] theorem applyReadySwitch_queue (s : State) : (applyReadySwitch s).queue = s.queue := by
  unfold applyReadySwitch; split <;> rfl
@[simp] theorem applyReadySwitch_host (s : State) : (applyReadySwitch s).host = s.host := by
  unfold applyReadySwitch; split <;> rfl
@[simp] theorem applyReadySwitch_port (s : State) : (applyReadySwitch s).port = s.port := by
  unfold applyReadySwitch; split <;> rfl
@[simp] theorem applyReadySwitch_scan (s : State) : (applyReadySwitch s).scan = s.scan := by
  unfold applyReadySwitch; split <;> rfl
@[simp] theorem applyReadySwitch_panel (s : State) : (applyReadySwitch s).panel = s.panel := by
  unfold applyReadySwitch; split <;> rfl
@[simp] theorem applyReadySwitch_mover (s : State) : (applyReadySwitch s).mover = s.mover := by
  unfold applyReadySwitch; split <;> rfl
@[simp] theorem applyReadySwitch_pins (s : State) : (applyReadySwitch s).pins = s.pins := by
  unfold applyReadySwitch; split <;> rfl
@[simp] theorem applyReadySwitch_free (s : State) : (applyReadySwitch s).free = s.free := by
  unfold applyReadySwitch; split <;> rfl

@[simp] theorem applyIfPassive_pending (s : State) : (applyIfPassive s).pending = s.pending := by
  unfold applyIfPassive; split <;> simp
@[simp] theorem applyIfPassive_mem (s : State) : (applyIfPassive s).mem = s.mem := by
  unfold applyIfPassive; split <;> simp
@[simp] theorem applyIfPassive_queue (s : State) : (applyIfPassive s).queue = s.queue := by
  unfold applyIfPassive; split <;> simp
@[simp] theorem applyIfPassive_host (s : State) : (applyIfPassive s).host = s.host := by
  unfold applyIfPassive; split <;> simp
@[simp] theorem applyIfPassive_port (s : State) : (applyIfPassive s).port = s.port := by
  unfold applyIfPassive; split <;> simp
@[simp] theorem applyIfPassive_scan (s : State) : (applyIfPassive s).scan = s.scan := by
  unfold applyIfPassive; split <;> simp
@[simp] theorem applyIfPassive_panel (s : State) : (applyIfPassive s).panel = s.panel := by
  unfold applyIfPassive; split <;> simp
@[simp] theorem applyIfPassive_mover (s : State) : (applyIfPassive s).mover = s.mover := by
  unfold applyIfPassive; split <;> simp
@[simp] theorem applyIfPassive_pins (s : State) : (applyIfPassive s).pins = s.pins := by
  unfold applyIfPassive; split <;> simp
@[simp] theorem applyIfPassive_free (s : State) : (applyIfPassive s).free = s.free := by
  unfold applyIfPassive; split <;> simp

@[simp] theorem clksel_pending (s : State) : (clksel s).pending = s.pending := by
  unfold clksel; (repeat' split) <;> simp
@[simp] theorem clksel_mem (s : State) : (clksel s).mem = s.mem := by
  unfold clksel; (repeat' split) <;> simp
@[simp] theorem clksel_queue (s : State) : (clksel s).queue = s.queue := by
  unfold clksel; (repeat' split) <;> simp
@[simp] theorem clksel_host (s : State) : (clksel s).host = s.host := by
  unfold clksel; (repeat' split) <;> simp
@[simp] theorem clksel_port (s : State) : (clksel s).port = s.port := by
  unfold clksel; (repeat' split) <;> simp
@[simp] theorem clksel_scan (s : State) : (clksel s).scan = s.scan := by
  unfold clksel; (repeat' split) <;> simp
@[simp] theorem clksel_panel (s : State) : (clksel s).panel = s.panel := by
  unfold clksel; (repeat' split) <;> simp
@[simp] theorem clksel_mover (s : State) : (clksel s).mover = s.mover := by
  unfold clksel; (repeat' split) <;> simp
@[simp] theorem clksel_pins (s : State) : (clksel s).pins = s.pins := by
  unfold clksel; (repeat' split) <;> simp
@[simp] theorem clksel_free (s : State) : (clksel s).free = s.free := by
  unfold clksel; (repeat' split) <;> simp

@[simp] theorem switchReady_pending (p : PendingSwitch) (s : State) : (switchReady p s).pending = s.pending := by
  simp [switchReady]
@[simp] theorem switchReady_mem (p : PendingSwitch) (s : State) : (switchReady p s).mem = s.mem := by
  simp [switchReady]
@[simp] theorem switchReady_queue (p : PendingSwitch) (s : State) : (switchReady p s).queue = s.queue := by
  simp [switchReady]
@[simp] theorem switchReady_host (p : PendingSwitch) (s : State) : (switchReady p s).host = s.host := by
  simp [switchReady]
@[simp] theorem switchReady_port (p : PendingSwitch) (s : State) : (switchReady p s).port = s.port := by
  simp [switchReady]
@[simp] theorem switchReady_scan (p : PendingSwitch) (s : State) : (switchReady p s).scan = s.scan := by
  simp [switchReady]
@[simp] theorem switchReady_panel (p : PendingSwitch) (s : State) : (switchReady p s).panel = s.panel := by
  simp [switchReady]
@[simp] theorem switchReady_mover (p : PendingSwitch) (s : State) : (switchReady p s).mover = s.mover := by
  simp [switchReady]
@[simp] theorem switchReady_pins (p : PendingSwitch) (s : State) : (switchReady p s).pins = s.pins := by
  simp [switchReady]
@[simp] theorem switchReady_free (p : PendingSwitch) (s : State) : (switchReady p s).free = s.free := by
  simp [switchReady]

@[simp] theorem checkReady_pending (s : State) : (checkReady s).pending = s.pending := rfl
@[simp] theorem checkReady_mem (s : State) : (checkReady s).mem = s.mem := rfl
@[simp] theorem checkReady_queue (s : State) : (checkReady s).queue = s.queue := rfl
@[simp] theorem checkReady_host (s : State) : (checkReady s).host = s.host := rfl
@[simp] theorem checkReady_port (s : State) : (checkReady s).port = s.port := rfl
@[simp] theorem checkReady_scan (s : State) : (checkReady s).scan = s.scan := rfl
@[simp] theorem checkReady_panel (s : State) : (checkReady s).panel = s.panel := rfl
@[simp] theorem checkReady_mover (s : State) : (checkReady s).mover = s.mover := rfl
@[simp] theorem checkReady_ctl (s : State) : (checkReady s).ctl = s.ctl := rfl
@[simp] theorem checkReady_pins (s : State) : (checkReady s).pins = s.pins := rfl
@[simp] theorem checkReady_free (s : State) : (checkReady s).free = s.free := rfl

@[simp] theorem startXclkLock_pending (s : State) : (startXclkLock s).pending = s.pending := rfl
@[simp] theorem startXclkLock_mem (s : State) : (startXclkLock s).mem = s.mem := rfl
@[simp] theorem startXclkLock_queue (s : State) : (startXclkLock s).queue = s.queue := rfl
@[simp] theorem startXclkLock_host (s : State) : (startXclkLock s).host = s.host := rfl
@[simp] theorem startXclkLock_port (s : State) : (startXclkLock s).port = s.port := rfl
@[simp] theorem startXclkLock_scan (s : State) : (startXclkLock s).scan = s.scan := rfl
@[simp] theorem startXclkLock_panel (s : State) : (startXclkLock s).panel = s.panel := rfl
@[simp] theorem startXclkLock_mover (s : State) : (startXclkLock s).mover = s.mover := rfl
@[simp] theorem startXclkLock_ctl (s : State) : (startXclkLock s).ctl = s.ctl := rfl
@[simp] theorem startXclkLock_pins (s : State) : (startXclkLock s).pins = s.pins := rfl
@[simp] theorem startXclkLock_free (s : State) : (startXclkLock s).free = s.free := rfl

@[simp] theorem xclkContinuityReady_pending (s : State) : (xclkContinuityReady s).pending = s.pending := by
  unfold xclkContinuityReady; (repeat' split) <;> simp
@[simp] theorem xclkContinuityReady_mem (s : State) : (xclkContinuityReady s).mem = s.mem := by
  unfold xclkContinuityReady; (repeat' split) <;> simp
@[simp] theorem xclkContinuityReady_queue (s : State) : (xclkContinuityReady s).queue = s.queue := by
  unfold xclkContinuityReady; (repeat' split) <;> simp
@[simp] theorem xclkContinuityReady_host (s : State) : (xclkContinuityReady s).host = s.host := by
  unfold xclkContinuityReady; (repeat' split) <;> simp
@[simp] theorem xclkContinuityReady_port (s : State) : (xclkContinuityReady s).port = s.port := by
  unfold xclkContinuityReady; (repeat' split) <;> simp
@[simp] theorem xclkContinuityReady_scan (s : State) : (xclkContinuityReady s).scan = s.scan := by
  unfold xclkContinuityReady; (repeat' split) <;> simp
@[simp] theorem xclkContinuityReady_panel (s : State) : (xclkContinuityReady s).panel = s.panel := by
  unfold xclkContinuityReady; (repeat' split) <;> simp
@[simp] theorem xclkContinuityReady_mover (s : State) : (xclkContinuityReady s).mover = s.mover := by
  unfold xclkContinuityReady; (repeat' split) <;> simp
@[simp] theorem xclkContinuityReady_pins (s : State) : (xclkContinuityReady s).pins = s.pins := by
  unfold xclkContinuityReady; (repeat' split) <;> simp
@[simp] theorem xclkContinuityReady_free (s : State) : (xclkContinuityReady s).free = s.free := by
  unfold xclkContinuityReady; (repeat' split) <;> simp

@[simp] theorem multiplierLocked_pending (s : State) : (multiplierLocked s).pending = s.pending := by
  simp only [multiplierLocked]; (repeat' split) <;> first | rfl | simp
@[simp] theorem multiplierLocked_mem (s : State) : (multiplierLocked s).mem = s.mem := by
  simp only [multiplierLocked]; (repeat' split) <;> first | rfl | simp
@[simp] theorem multiplierLocked_queue (s : State) : (multiplierLocked s).queue = s.queue := by
  simp only [multiplierLocked]; (repeat' split) <;> first | rfl | simp
@[simp] theorem multiplierLocked_host (s : State) : (multiplierLocked s).host = s.host := by
  simp only [multiplierLocked]; (repeat' split) <;> first | rfl | simp
@[simp] theorem multiplierLocked_port (s : State) : (multiplierLocked s).port = s.port := by
  simp only [multiplierLocked]; (repeat' split) <;> first | rfl | simp
@[simp] theorem multiplierLocked_scan (s : State) : (multiplierLocked s).scan = s.scan := by
  simp only [multiplierLocked]; (repeat' split) <;> first | rfl | simp
@[simp] theorem multiplierLocked_panel (s : State) : (multiplierLocked s).panel = s.panel := by
  simp only [multiplierLocked]; (repeat' split) <;> first | rfl | simp
@[simp] theorem multiplierLocked_mover (s : State) : (multiplierLocked s).mover = s.mover := by
  simp only [multiplierLocked]; (repeat' split) <;> first | rfl | simp
@[simp] theorem multiplierLocked_pins (s : State) : (multiplierLocked s).pins = s.pins := by
  simp only [multiplierLocked]; (repeat' split) <;> first | rfl | simp
@[simp] theorem multiplierLocked_free (s : State) : (multiplierLocked s).free = s.free := by
  simp only [multiplierLocked]; (repeat' split) <;> first | rfl | simp

@[simp] theorem abandonSwitch_pending (p : PendingSwitch) (s : State) : (abandonSwitch p s).pending = s.pending := rfl
@[simp] theorem abandonSwitch_mem (p : PendingSwitch) (s : State) : (abandonSwitch p s).mem = s.mem := rfl
@[simp] theorem abandonSwitch_queue (p : PendingSwitch) (s : State) : (abandonSwitch p s).queue = s.queue := rfl
@[simp] theorem abandonSwitch_host (p : PendingSwitch) (s : State) : (abandonSwitch p s).host = s.host := rfl
@[simp] theorem abandonSwitch_port (p : PendingSwitch) (s : State) : (abandonSwitch p s).port = s.port := rfl
@[simp] theorem abandonSwitch_scan (p : PendingSwitch) (s : State) : (abandonSwitch p s).scan = s.scan := rfl
@[simp] theorem abandonSwitch_panel (p : PendingSwitch) (s : State) : (abandonSwitch p s).panel = s.panel := rfl
@[simp] theorem abandonSwitch_mover (p : PendingSwitch) (s : State) : (abandonSwitch p s).mover = s.mover := rfl
@[simp] theorem abandonSwitch_pins (p : PendingSwitch) (s : State) : (abandonSwitch p s).pins = s.pins := rfl
@[simp] theorem abandonSwitch_free (p : PendingSwitch) (s : State) : (abandonSwitch p s).free = s.free := rfl

@[simp] theorem readinessTimeout_pending (s : State) : (readinessTimeout s).pending = s.pending := by
  unfold readinessTimeout; (repeat' split) <;> rfl
@[simp] theorem readinessTimeout_mem (s : State) : (readinessTimeout s).mem = s.mem := by
  unfold readinessTimeout; (repeat' split) <;> rfl
@[simp] theorem readinessTimeout_queue (s : State) : (readinessTimeout s).queue = s.queue := by
  unfold readinessTimeout; (repeat' split) <;> rfl
@[simp] theorem readinessTimeout_host (s : State) : (readinessTimeout s).host = s.host := by
  unfold readinessTimeout; (repeat' split) <;> rfl
@[simp] theorem readinessTimeout_port (s : State) : (readinessTimeout s).port = s.port := by
  unfold readinessTimeout; (repeat' split) <;> rfl
@[simp] theorem readinessTimeout_scan (s : State) : (readinessTimeout s).scan = s.scan := by
  unfold readinessTimeout; (repeat' split) <;> rfl
@[simp] theorem readinessTimeout_panel (s : State) : (readinessTimeout s).panel = s.panel := by
  unfold readinessTimeout; (repeat' split) <;> rfl
@[simp] theorem readinessTimeout_mover (s : State) : (readinessTimeout s).mover = s.mover := by
  unfold readinessTimeout; (repeat' split) <;> rfl
@[simp] theorem readinessTimeout_pins (s : State) : (readinessTimeout s).pins = s.pins := by
  unfold readinessTimeout; (repeat' split) <;> rfl
@[simp] theorem readinessTimeout_free (s : State) : (readinessTimeout s).free = s.free := by
  unfold readinessTimeout; (repeat' split) <;> rfl

@[simp] theorem failover_pending (s : State) : (failover s).pending = s.pending := by
  unfold failover; split <;> rfl
@[simp] theorem failover_mem (s : State) : (failover s).mem = s.mem := by
  unfold failover; split <;> rfl
@[simp] theorem failover_queue (s : State) : (failover s).queue = s.queue := by
  unfold failover; split <;> rfl
@[simp] theorem failover_host (s : State) : (failover s).host = s.host := by
  unfold failover; split <;> rfl
@[simp] theorem failover_port (s : State) : (failover s).port = s.port := by
  unfold failover; split <;> rfl
@[simp] theorem failover_scan (s : State) : (failover s).scan = s.scan := by
  unfold failover; split <;> rfl
@[simp] theorem failover_panel (s : State) : (failover s).panel = s.panel := by
  unfold failover; split <;> rfl
@[simp] theorem failover_mover (s : State) : (failover s).mover = s.mover := by
  unfold failover; split <;> rfl
@[simp] theorem failover_pins (s : State) : (failover s).pins = s.pins := by
  unfold failover; split <;> rfl
@[simp] theorem failover_free (s : State) : (failover s).free = s.free := by
  unfold failover; split <;> rfl

@[simp] theorem abandonExternal_pending (s : State) : (abandonExternal s).pending = s.pending := by
  unfold abandonExternal; (repeat' split) <;> rfl
@[simp] theorem abandonExternal_mem (s : State) : (abandonExternal s).mem = s.mem := by
  unfold abandonExternal; (repeat' split) <;> rfl
@[simp] theorem abandonExternal_queue (s : State) : (abandonExternal s).queue = s.queue := by
  unfold abandonExternal; (repeat' split) <;> rfl
@[simp] theorem abandonExternal_host (s : State) : (abandonExternal s).host = s.host := by
  unfold abandonExternal; (repeat' split) <;> rfl
@[simp] theorem abandonExternal_port (s : State) : (abandonExternal s).port = s.port := by
  unfold abandonExternal; (repeat' split) <;> rfl
@[simp] theorem abandonExternal_scan (s : State) : (abandonExternal s).scan = s.scan := by
  unfold abandonExternal; (repeat' split) <;> rfl
@[simp] theorem abandonExternal_panel (s : State) : (abandonExternal s).panel = s.panel := by
  unfold abandonExternal; (repeat' split) <;> rfl
@[simp] theorem abandonExternal_mover (s : State) : (abandonExternal s).mover = s.mover := by
  unfold abandonExternal; (repeat' split) <;> rfl
@[simp] theorem abandonExternal_pins (s : State) : (abandonExternal s).pins = s.pins := by
  unfold abandonExternal; (repeat' split) <;> rfl
@[simp] theorem abandonExternal_free (s : State) : (abandonExternal s).free = s.free := by
  unfold abandonExternal; (repeat' split) <;> rfl

@[simp] theorem lossOfXclk_pending (s : State) : (lossOfXclk s).pending = s.pending := by
  unfold lossOfXclk; split <;> simp
@[simp] theorem lossOfXclk_mem (s : State) : (lossOfXclk s).mem = s.mem := by
  unfold lossOfXclk; split <;> simp
@[simp] theorem lossOfXclk_queue (s : State) : (lossOfXclk s).queue = s.queue := by
  unfold lossOfXclk; split <;> simp
@[simp] theorem lossOfXclk_host (s : State) : (lossOfXclk s).host = s.host := by
  unfold lossOfXclk; split <;> simp
@[simp] theorem lossOfXclk_port (s : State) : (lossOfXclk s).port = s.port := by
  unfold lossOfXclk; split <;> simp
@[simp] theorem lossOfXclk_scan (s : State) : (lossOfXclk s).scan = s.scan := by
  unfold lossOfXclk; split <;> simp
@[simp] theorem lossOfXclk_panel (s : State) : (lossOfXclk s).panel = s.panel := by
  unfold lossOfXclk; split <;> simp
@[simp] theorem lossOfXclk_mover (s : State) : (lossOfXclk s).mover = s.mover := by
  unfold lossOfXclk; split <;> simp
@[simp] theorem lossOfXclk_pins (s : State) : (lossOfXclk s).pins = s.pins := by
  unfold lossOfXclk; split <;> simp
@[simp] theorem lossOfXclk_free (s : State) : (lossOfXclk s).free = s.free := by
  unfold lossOfXclk; split <;> simp

@[simp] theorem setIState_pending (i : IState) (s : State) : (setIState i s).pending = s.pending := rfl
@[simp] theorem setIState_mem (i : IState) (s : State) : (setIState i s).mem = s.mem := rfl
@[simp] theorem setIState_queue (i : IState) (s : State) : (setIState i s).queue = s.queue := rfl
@[simp] theorem setIState_host (i : IState) (s : State) : (setIState i s).host = s.host := rfl
@[simp] theorem setIState_port (i : IState) (s : State) : (setIState i s).port = s.port := rfl
@[simp] theorem setIState_scan (i : IState) (s : State) : (setIState i s).scan = s.scan := rfl
@[simp] theorem setIState_panel (i : IState) (s : State) : (setIState i s).panel = s.panel := rfl
@[simp] theorem setIState_mover (i : IState) (s : State) : (setIState i s).mover = s.mover := rfl
@[simp] theorem setIState_clock (i : IState) (s : State) : (setIState i s).clock = s.clock := rfl
@[simp] theorem setIState_pins (i : IState) (s : State) : (setIState i s).pins = s.pins := rfl
@[simp] theorem setIState_free (i : IState) (s : State) : (setIState i s).free = s.free := rfl

@[simp] theorem leaveDormant_pending (s : State) : (leaveDormant s).pending = s.pending := rfl
@[simp] theorem leaveDormant_mem (s : State) : (leaveDormant s).mem = s.mem := rfl
@[simp] theorem leaveDormant_queue (s : State) : (leaveDormant s).queue = s.queue := rfl
@[simp] theorem leaveDormant_host (s : State) : (leaveDormant s).host = s.host := rfl
@[simp] theorem leaveDormant_port (s : State) : (leaveDormant s).port = s.port := rfl
@[simp] theorem leaveDormant_scan (s : State) : (leaveDormant s).scan = s.scan := rfl
@[simp] theorem leaveDormant_panel (s : State) : (leaveDormant s).panel = s.panel := rfl
@[simp] theorem leaveDormant_mover (s : State) : (leaveDormant s).mover = s.mover := rfl
@[simp] theorem leaveDormant_pins (s : State) : (leaveDormant s).pins = s.pins := rfl
@[simp] theorem leaveDormant_free (s : State) : (leaveDormant s).free = s.free := rfl

@[simp] theorem wakeUp_pending (s : State) : (wakeUp s).pending = s.pending := by
  unfold wakeUp; split <;> rfl
@[simp] theorem wakeUp_mem (s : State) : (wakeUp s).mem = s.mem := by
  unfold wakeUp; split <;> rfl
@[simp] theorem wakeUp_queue (s : State) : (wakeUp s).queue = s.queue := by
  unfold wakeUp; split <;> rfl
@[simp] theorem wakeUp_host (s : State) : (wakeUp s).host = s.host := by
  unfold wakeUp; split <;> rfl
@[simp] theorem wakeUp_port (s : State) : (wakeUp s).port = s.port := by
  unfold wakeUp; split <;> rfl
@[simp] theorem wakeUp_scan (s : State) : (wakeUp s).scan = s.scan := by
  unfold wakeUp; split <;> rfl
@[simp] theorem wakeUp_panel (s : State) : (wakeUp s).panel = s.panel := by
  unfold wakeUp; split <;> rfl
@[simp] theorem wakeUp_mover (s : State) : (wakeUp s).mover = s.mover := by
  unfold wakeUp; split <;> rfl
@[simp] theorem wakeUp_pins (s : State) : (wakeUp s).pins = s.pins := by
  unfold wakeUp; split <;> rfl
@[simp] theorem wakeUp_free (s : State) : (wakeUp s).free = s.free := by
  unfold wakeUp; split <;> rfl

@[simp] theorem engageAccepted_pending (s : State) : (engageAccepted s).pending = s.pending := rfl
@[simp] theorem engageAccepted_mem (s : State) : (engageAccepted s).mem = s.mem := rfl
@[simp] theorem engageAccepted_queue (s : State) : (engageAccepted s).queue = s.queue := rfl
@[simp] theorem engageAccepted_host (s : State) : (engageAccepted s).host = s.host := rfl
@[simp] theorem engageAccepted_port (s : State) : (engageAccepted s).port = s.port := rfl
@[simp] theorem engageAccepted_panel (s : State) : (engageAccepted s).panel = s.panel := rfl
@[simp] theorem engageAccepted_mover (s : State) : (engageAccepted s).mover = s.mover := rfl
@[simp] theorem engageAccepted_clock (s : State) : (engageAccepted s).clock = s.clock := rfl
@[simp] theorem engageAccepted_pins (s : State) : (engageAccepted s).pins = s.pins := rfl
@[simp] theorem engageAccepted_free (s : State) : (engageAccepted s).free = s.free := rfl

@[simp] theorem engage_pending (s : State) : (engage s).pending = s.pending := by
  unfold engage; (repeat' split) <;> rfl
@[simp] theorem engage_mem (s : State) : (engage s).mem = s.mem := by
  unfold engage; (repeat' split) <;> rfl
@[simp] theorem engage_queue (s : State) : (engage s).queue = s.queue := by
  unfold engage; (repeat' split) <;> rfl
@[simp] theorem engage_host (s : State) : (engage s).host = s.host := by
  unfold engage; (repeat' split) <;> rfl
@[simp] theorem engage_port (s : State) : (engage s).port = s.port := by
  unfold engage; (repeat' split) <;> rfl
@[simp] theorem engage_panel (s : State) : (engage s).panel = s.panel := by
  unfold engage; (repeat' split) <;> rfl
@[simp] theorem engage_mover (s : State) : (engage s).mover = s.mover := by
  unfold engage; (repeat' split) <;> rfl
@[simp] theorem engage_clock (s : State) : (engage s).clock = s.clock := by
  unfold engage; (repeat' split) <;> rfl
@[simp] theorem engage_pins (s : State) : (engage s).pins = s.pins := by
  unfold engage; (repeat' split) <;> rfl
@[simp] theorem engage_free (s : State) : (engage s).free = s.free := by
  unfold engage; (repeat' split) <;> rfl

@[simp] theorem disengage_pending (s : State) : (disengage s).pending = s.pending := by
  unfold disengage; split <;> simp
@[simp] theorem disengage_mem (s : State) : (disengage s).mem = s.mem := by
  unfold disengage; split <;> simp
@[simp] theorem disengage_queue (s : State) : (disengage s).queue = s.queue := by
  unfold disengage; split <;> simp
@[simp] theorem disengage_host (s : State) : (disengage s).host = s.host := by
  unfold disengage; split <;> simp
@[simp] theorem disengage_port (s : State) : (disengage s).port = s.port := by
  unfold disengage; split <;> simp
@[simp] theorem disengage_scan (s : State) : (disengage s).scan = s.scan := by
  unfold disengage; split <;> simp
@[simp] theorem disengage_panel (s : State) : (disengage s).panel = s.panel := by
  unfold disengage; split <;> simp
@[simp] theorem disengage_mover (s : State) : (disengage s).mover = s.mover := by
  unfold disengage; split <;> simp
@[simp] theorem disengage_pins (s : State) : (disengage s).pins = s.pins := by
  unfold disengage; split <;> simp
@[simp] theorem disengage_free (s : State) : (disengage s).free = s.free := by
  unfold disengage; split <;> simp

@[simp] theorem quiesce_pending (s : State) : (quiesce s).pending = s.pending := by
  unfold quiesce; (repeat' split) <;> rfl
@[simp] theorem quiesce_mem (s : State) : (quiesce s).mem = s.mem := by
  unfold quiesce; (repeat' split) <;> rfl
@[simp] theorem quiesce_queue (s : State) : (quiesce s).queue = s.queue := by
  unfold quiesce; (repeat' split) <;> rfl
@[simp] theorem quiesce_host (s : State) : (quiesce s).host = s.host := by
  unfold quiesce; (repeat' split) <;> rfl
@[simp] theorem quiesce_port (s : State) : (quiesce s).port = s.port := by
  unfold quiesce; (repeat' split) <;> rfl
@[simp] theorem quiesce_scan (s : State) : (quiesce s).scan = s.scan := by
  unfold quiesce; (repeat' split) <;> rfl
@[simp] theorem quiesce_panel (s : State) : (quiesce s).panel = s.panel := by
  unfold quiesce; (repeat' split) <;> rfl
@[simp] theorem quiesce_mover (s : State) : (quiesce s).mover = s.mover := by
  unfold quiesce; (repeat' split) <;> rfl
@[simp] theorem quiesce_clock (s : State) : (quiesce s).clock = s.clock := by
  unfold quiesce; (repeat' split) <;> rfl
@[simp] theorem quiesce_pins (s : State) : (quiesce s).pins = s.pins := by
  unfold quiesce; (repeat' split) <;> rfl
@[simp] theorem quiesce_free (s : State) : (quiesce s).free = s.free := by
  unfold quiesce; (repeat' split) <;> rfl

@[simp] theorem resume_pending (s : State) : (resume s).pending = s.pending := by
  unfold resume; (repeat' split) <;> rfl
@[simp] theorem resume_mem (s : State) : (resume s).mem = s.mem := by
  unfold resume; (repeat' split) <;> rfl
@[simp] theorem resume_queue (s : State) : (resume s).queue = s.queue := by
  unfold resume; (repeat' split) <;> rfl
@[simp] theorem resume_host (s : State) : (resume s).host = s.host := by
  unfold resume; (repeat' split) <;> rfl
@[simp] theorem resume_port (s : State) : (resume s).port = s.port := by
  unfold resume; (repeat' split) <;> rfl
@[simp] theorem resume_scan (s : State) : (resume s).scan = s.scan := by
  unfold resume; (repeat' split) <;> rfl
@[simp] theorem resume_panel (s : State) : (resume s).panel = s.panel := by
  unfold resume; (repeat' split) <;> rfl
@[simp] theorem resume_mover (s : State) : (resume s).mover = s.mover := by
  unfold resume; (repeat' split) <;> rfl
@[simp] theorem resume_pins (s : State) : (resume s).pins = s.pins := by
  unfold resume; (repeat' split) <;> rfl
@[simp] theorem resume_free (s : State) : (resume s).free = s.free := by
  unfold resume; (repeat' split) <;> rfl

@[simp] theorem commitOpen_pending (s : State) : (commitOpen s).pending = s.pending := by
  simp [commitOpen]
@[simp] theorem commitOpen_mem (s : State) : (commitOpen s).mem = s.mem := by
  simp [commitOpen]
@[simp] theorem commitOpen_port (s : State) : (commitOpen s).port = s.port := by
  simp [commitOpen]
@[simp] theorem commitOpen_scan (s : State) : (commitOpen s).scan = s.scan := by
  simp [commitOpen]
@[simp] theorem commitOpen_panel (s : State) : (commitOpen s).panel = s.panel := by
  simp [commitOpen]
@[simp] theorem commitOpen_mover (s : State) : (commitOpen s).mover = s.mover := by
  simp [commitOpen]
@[simp] theorem commitOpen_clock (s : State) : (commitOpen s).clock = s.clock := by
  simp [commitOpen]
@[simp] theorem commitOpen_ctl (s : State) : (commitOpen s).ctl = s.ctl := by
  simp [commitOpen]
@[simp] theorem commitOpen_pins (s : State) : (commitOpen s).pins = s.pins := by
  simp [commitOpen]
@[simp] theorem commitOpen_free (s : State) : (commitOpen s).free = s.free := by
  simp [commitOpen]

@[simp] theorem commit_pending (s : State) : (commit s).pending = s.pending := by
  unfold commit; (repeat' split) <;> simp
@[simp] theorem commit_mem (s : State) : (commit s).mem = s.mem := by
  unfold commit; (repeat' split) <;> simp
@[simp] theorem commit_port (s : State) : (commit s).port = s.port := by
  unfold commit; (repeat' split) <;> simp
@[simp] theorem commit_scan (s : State) : (commit s).scan = s.scan := by
  unfold commit; (repeat' split) <;> simp
@[simp] theorem commit_panel (s : State) : (commit s).panel = s.panel := by
  unfold commit; (repeat' split) <;> simp
@[simp] theorem commit_mover (s : State) : (commit s).mover = s.mover := by
  unfold commit; (repeat' split) <;> simp
@[simp] theorem commit_clock (s : State) : (commit s).clock = s.clock := by
  unfold commit; (repeat' split) <;> simp
@[simp] theorem commit_pins (s : State) : (commit s).pins = s.pins := by
  unfold commit; (repeat' split) <;> simp
@[simp] theorem commit_free (s : State) : (commit s).free = s.free := by
  unfold commit; (repeat' split) <;> simp

@[simp] theorem spill_pending (s : State) : (spill s).pending = s.pending := rfl
@[simp] theorem spill_mem (s : State) : (spill s).mem = s.mem := rfl
@[simp] theorem spill_host (s : State) : (spill s).host = s.host := rfl
@[simp] theorem spill_port (s : State) : (spill s).port = s.port := rfl
@[simp] theorem spill_scan (s : State) : (spill s).scan = s.scan := rfl
@[simp] theorem spill_panel (s : State) : (spill s).panel = s.panel := rfl
@[simp] theorem spill_mover (s : State) : (spill s).mover = s.mover := rfl
@[simp] theorem spill_clock (s : State) : (spill s).clock = s.clock := rfl
@[simp] theorem spill_pins (s : State) : (spill s).pins = s.pins := rfl
@[simp] theorem spill_free (s : State) : (spill s).free = s.free := rfl

@[simp] theorem ackEvents_pending (s : State) : (ackEvents s).pending = s.pending := rfl
@[simp] theorem ackEvents_mem (s : State) : (ackEvents s).mem = s.mem := rfl
@[simp] theorem ackEvents_queue (s : State) : (ackEvents s).queue = s.queue := rfl
@[simp] theorem ackEvents_host (s : State) : (ackEvents s).host = s.host := rfl
@[simp] theorem ackEvents_port (s : State) : (ackEvents s).port = s.port := rfl
@[simp] theorem ackEvents_scan (s : State) : (ackEvents s).scan = s.scan := rfl
@[simp] theorem ackEvents_panel (s : State) : (ackEvents s).panel = s.panel := rfl
@[simp] theorem ackEvents_mover (s : State) : (ackEvents s).mover = s.mover := rfl
@[simp] theorem ackEvents_clock (s : State) : (ackEvents s).clock = s.clock := rfl
@[simp] theorem ackEvents_pins (s : State) : (ackEvents s).pins = s.pins := rfl
@[simp] theorem ackEvents_free (s : State) : (ackEvents s).free = s.free := rfl

@[simp] theorem setptr_pending (s : State) : (setptr s).pending = s.pending := by
  unfold setptr; split <;> rfl
@[simp] theorem setptr_mem (s : State) : (setptr s).mem = s.mem := by
  unfold setptr; split <;> rfl
@[simp] theorem setptr_queue (s : State) : (setptr s).queue = s.queue := by
  unfold setptr; split <;> rfl
@[simp] theorem setptr_host (s : State) : (setptr s).host = s.host := by
  unfold setptr; split <;> rfl
@[simp] theorem setptr_port (s : State) : (setptr s).port = s.port := by
  unfold setptr; split <;> rfl
@[simp] theorem setptr_scan (s : State) : (setptr s).scan = s.scan := by
  unfold setptr; split <;> rfl
@[simp] theorem setptr_panel (s : State) : (setptr s).panel = s.panel := by
  unfold setptr; split <;> rfl
@[simp] theorem setptr_mover (s : State) : (setptr s).mover = s.mover := by
  unfold setptr; split <;> rfl
@[simp] theorem setptr_clock (s : State) : (setptr s).clock = s.clock := by
  unfold setptr; split <;> rfl
@[simp] theorem setptr_pins (s : State) : (setptr s).pins = s.pins := by
  unfold setptr; split <;> rfl
@[simp] theorem setptr_free (s : State) : (setptr s).free = s.free := by
  unfold setptr; split <;> rfl

@[simp] theorem runCommand_pending (c : Command) (s : State) : (runCommand c s).pending = s.pending := by
  unfold runCommand; split <;> simp
@[simp] theorem runCommand_mem (c : Command) (s : State) : (runCommand c s).mem = s.mem := by
  unfold runCommand; split <;> simp
@[simp] theorem runCommand_port (c : Command) (s : State) : (runCommand c s).port = s.port := by
  unfold runCommand; split <;> simp
@[simp] theorem runCommand_panel (c : Command) (s : State) : (runCommand c s).panel = s.panel := by
  unfold runCommand; split <;> simp
@[simp] theorem runCommand_pins (c : Command) (s : State) : (runCommand c s).pins = s.pins := by
  unfold runCommand; split <;> simp
@[simp] theorem runCommand_free (c : Command) (s : State) : (runCommand c s).free = s.free := by
  unfold runCommand; split <;> simp

@[simp] theorem unknownCommand_pending (code : Word) (s : State) : (unknownCommand code s).pending = s.pending := rfl
@[simp] theorem unknownCommand_mem (code : Word) (s : State) : (unknownCommand code s).mem = s.mem := rfl
@[simp] theorem unknownCommand_queue (code : Word) (s : State) : (unknownCommand code s).queue = s.queue := rfl
@[simp] theorem unknownCommand_host (code : Word) (s : State) : (unknownCommand code s).host = s.host := rfl
@[simp] theorem unknownCommand_port (code : Word) (s : State) : (unknownCommand code s).port = s.port := rfl
@[simp] theorem unknownCommand_scan (code : Word) (s : State) : (unknownCommand code s).scan = s.scan := rfl
@[simp] theorem unknownCommand_panel (code : Word) (s : State) : (unknownCommand code s).panel = s.panel := rfl
@[simp] theorem unknownCommand_mover (code : Word) (s : State) : (unknownCommand code s).mover = s.mover := rfl
@[simp] theorem unknownCommand_clock (code : Word) (s : State) : (unknownCommand code s).clock = s.clock := rfl
@[simp] theorem unknownCommand_pins (code : Word) (s : State) : (unknownCommand code s).pins = s.pins := rfl
@[simp] theorem unknownCommand_free (code : Word) (s : State) : (unknownCommand code s).free = s.free := rfl

@[simp] theorem malformedCommand_pending (data : Word) (lanes : Lanes) (s : State) : (malformedCommand data lanes s).pending = s.pending := rfl
@[simp] theorem malformedCommand_mem (data : Word) (lanes : Lanes) (s : State) : (malformedCommand data lanes s).mem = s.mem := rfl
@[simp] theorem malformedCommand_queue (data : Word) (lanes : Lanes) (s : State) : (malformedCommand data lanes s).queue = s.queue := rfl
@[simp] theorem malformedCommand_host (data : Word) (lanes : Lanes) (s : State) : (malformedCommand data lanes s).host = s.host := rfl
@[simp] theorem malformedCommand_port (data : Word) (lanes : Lanes) (s : State) : (malformedCommand data lanes s).port = s.port := rfl
@[simp] theorem malformedCommand_scan (data : Word) (lanes : Lanes) (s : State) : (malformedCommand data lanes s).scan = s.scan := rfl
@[simp] theorem malformedCommand_panel (data : Word) (lanes : Lanes) (s : State) : (malformedCommand data lanes s).panel = s.panel := rfl
@[simp] theorem malformedCommand_mover (data : Word) (lanes : Lanes) (s : State) : (malformedCommand data lanes s).mover = s.mover := rfl
@[simp] theorem malformedCommand_clock (data : Word) (lanes : Lanes) (s : State) : (malformedCommand data lanes s).clock = s.clock := rfl
@[simp] theorem malformedCommand_pins (data : Word) (lanes : Lanes) (s : State) : (malformedCommand data lanes s).pins = s.pins := rfl
@[simp] theorem malformedCommand_free (data : Word) (lanes : Lanes) (s : State) : (malformedCommand data lanes s).free = s.free := rfl

@[simp] theorem commandWritten_pending (data : Word) (lanes : Lanes) (s : State) : (commandWritten data lanes s).pending = s.pending := by
  unfold commandWritten; (repeat' split) <;> simp
@[simp] theorem commandWritten_mem (data : Word) (lanes : Lanes) (s : State) : (commandWritten data lanes s).mem = s.mem := by
  unfold commandWritten; (repeat' split) <;> simp
@[simp] theorem commandWritten_port (data : Word) (lanes : Lanes) (s : State) : (commandWritten data lanes s).port = s.port := by
  unfold commandWritten; (repeat' split) <;> simp
@[simp] theorem commandWritten_panel (data : Word) (lanes : Lanes) (s : State) : (commandWritten data lanes s).panel = s.panel := by
  unfold commandWritten; (repeat' split) <;> simp
@[simp] theorem commandWritten_pins (data : Word) (lanes : Lanes) (s : State) : (commandWritten data lanes s).pins = s.pins := by
  unfold commandWritten; (repeat' split) <;> simp
@[simp] theorem commandWritten_free (data : Word) (lanes : Lanes) (s : State) : (commandWritten data lanes s).free = s.free := by
  unfold commandWritten; (repeat' split) <;> simp

@[simp] theorem argumentWritten_pending (n : Fin 6) (data : Word) (lanes : Lanes) (s : State) : (argumentWritten n data lanes s).pending = s.pending := rfl
@[simp] theorem argumentWritten_mem (n : Fin 6) (data : Word) (lanes : Lanes) (s : State) : (argumentWritten n data lanes s).mem = s.mem := rfl
@[simp] theorem argumentWritten_queue (n : Fin 6) (data : Word) (lanes : Lanes) (s : State) : (argumentWritten n data lanes s).queue = s.queue := rfl
@[simp] theorem argumentWritten_host (n : Fin 6) (data : Word) (lanes : Lanes) (s : State) : (argumentWritten n data lanes s).host = s.host := rfl
@[simp] theorem argumentWritten_port (n : Fin 6) (data : Word) (lanes : Lanes) (s : State) : (argumentWritten n data lanes s).port = s.port := rfl
@[simp] theorem argumentWritten_scan (n : Fin 6) (data : Word) (lanes : Lanes) (s : State) : (argumentWritten n data lanes s).scan = s.scan := rfl
@[simp] theorem argumentWritten_panel (n : Fin 6) (data : Word) (lanes : Lanes) (s : State) : (argumentWritten n data lanes s).panel = s.panel := rfl
@[simp] theorem argumentWritten_mover (n : Fin 6) (data : Word) (lanes : Lanes) (s : State) : (argumentWritten n data lanes s).mover = s.mover := rfl
@[simp] theorem argumentWritten_clock (n : Fin 6) (data : Word) (lanes : Lanes) (s : State) : (argumentWritten n data lanes s).clock = s.clock := rfl
@[simp] theorem argumentWritten_pins (n : Fin 6) (data : Word) (lanes : Lanes) (s : State) : (argumentWritten n data lanes s).pins = s.pins := rfl
@[simp] theorem argumentWritten_free (n : Fin 6) (data : Word) (lanes : Lanes) (s : State) : (argumentWritten n data lanes s).free = s.free := rfl

@[simp] theorem storeField_pending (v : Word) (s : State) : (storeField v s).pending = s.pending := rfl
@[simp] theorem storeField_mem (v : Word) (s : State) : (storeField v s).mem = s.mem := rfl
@[simp] theorem storeField_queue (v : Word) (s : State) : (storeField v s).queue = s.queue := rfl
@[simp] theorem storeField_host (v : Word) (s : State) : (storeField v s).host = s.host := rfl
@[simp] theorem storeField_port (v : Word) (s : State) : (storeField v s).port = s.port := rfl
@[simp] theorem storeField_scan (v : Word) (s : State) : (storeField v s).scan = s.scan := rfl
@[simp] theorem storeField_panel (v : Word) (s : State) : (storeField v s).panel = s.panel := rfl
@[simp] theorem storeField_mover (v : Word) (s : State) : (storeField v s).mover = s.mover := rfl
@[simp] theorem storeField_clock (v : Word) (s : State) : (storeField v s).clock = s.clock := rfl
@[simp] theorem storeField_pins (v : Word) (s : State) : (storeField v s).pins = s.pins := rfl
@[simp] theorem storeField_free (v : Word) (s : State) : (storeField v s).free = s.free := rfl

@[simp] theorem stageLo_pending (v : Word) (s : State) : (stageLo v s).pending = s.pending := rfl
@[simp] theorem stageLo_mem (v : Word) (s : State) : (stageLo v s).mem = s.mem := rfl
@[simp] theorem stageLo_queue (v : Word) (s : State) : (stageLo v s).queue = s.queue := rfl
@[simp] theorem stageLo_host (v : Word) (s : State) : (stageLo v s).host = s.host := rfl
@[simp] theorem stageLo_port (v : Word) (s : State) : (stageLo v s).port = s.port := rfl
@[simp] theorem stageLo_panel (v : Word) (s : State) : (stageLo v s).panel = s.panel := rfl
@[simp] theorem stageLo_mover (v : Word) (s : State) : (stageLo v s).mover = s.mover := rfl
@[simp] theorem stageLo_clock (v : Word) (s : State) : (stageLo v s).clock = s.clock := rfl
@[simp] theorem stageLo_ctl (v : Word) (s : State) : (stageLo v s).ctl = s.ctl := rfl
@[simp] theorem stageLo_pins (v : Word) (s : State) : (stageLo v s).pins = s.pins := rfl
@[simp] theorem stageLo_free (v : Word) (s : State) : (stageLo v s).free = s.free := rfl

@[simp] theorem stageHi_pending (v : Word) (s : State) : (stageHi v s).pending = s.pending := by
  unfold stageHi; split <;> simp
@[simp] theorem stageHi_mem (v : Word) (s : State) : (stageHi v s).mem = s.mem := by
  unfold stageHi; split <;> simp
@[simp] theorem stageHi_queue (v : Word) (s : State) : (stageHi v s).queue = s.queue := by
  unfold stageHi; split <;> simp
@[simp] theorem stageHi_host (v : Word) (s : State) : (stageHi v s).host = s.host := by
  unfold stageHi; split <;> simp
@[simp] theorem stageHi_port (v : Word) (s : State) : (stageHi v s).port = s.port := by
  unfold stageHi; split <;> simp
@[simp] theorem stageHi_panel (v : Word) (s : State) : (stageHi v s).panel = s.panel := by
  unfold stageHi; split <;> simp
@[simp] theorem stageHi_mover (v : Word) (s : State) : (stageHi v s).mover = s.mover := by
  unfold stageHi; split <;> simp
@[simp] theorem stageHi_clock (v : Word) (s : State) : (stageHi v s).clock = s.clock := by
  unfold stageHi; split <;> simp
@[simp] theorem stageHi_pins (v : Word) (s : State) : (stageHi v s).pins = s.pins := by
  unfold stageHi; split <;> simp
@[simp] theorem stageHi_free (v : Word) (s : State) : (stageHi v s).free = s.free := by
  unfold stageHi; split <;> simp

@[simp] theorem fieldStored_pending (i : Fin 17) (v : Word) (s : State) : (fieldStored i v s).pending = s.pending := by
  unfold fieldStored; (repeat' split) <;> simp
@[simp] theorem fieldStored_mem (i : Fin 17) (v : Word) (s : State) : (fieldStored i v s).mem = s.mem := by
  unfold fieldStored; (repeat' split) <;> simp
@[simp] theorem fieldStored_queue (i : Fin 17) (v : Word) (s : State) : (fieldStored i v s).queue = s.queue := by
  unfold fieldStored; (repeat' split) <;> simp
@[simp] theorem fieldStored_host (i : Fin 17) (v : Word) (s : State) : (fieldStored i v s).host = s.host := by
  unfold fieldStored; (repeat' split) <;> simp
@[simp] theorem fieldStored_port (i : Fin 17) (v : Word) (s : State) : (fieldStored i v s).port = s.port := by
  unfold fieldStored; (repeat' split) <;> simp
@[simp] theorem fieldStored_panel (i : Fin 17) (v : Word) (s : State) : (fieldStored i v s).panel = s.panel := by
  unfold fieldStored; (repeat' split) <;> simp
@[simp] theorem fieldStored_mover (i : Fin 17) (v : Word) (s : State) : (fieldStored i v s).mover = s.mover := by
  unfold fieldStored; (repeat' split) <;> simp
@[simp] theorem fieldStored_clock (i : Fin 17) (v : Word) (s : State) : (fieldStored i v s).clock = s.clock := by
  unfold fieldStored; (repeat' split) <;> simp
@[simp] theorem fieldStored_pins (i : Fin 17) (v : Word) (s : State) : (fieldStored i v s).pins = s.pins := by
  unfold fieldStored; (repeat' split) <;> simp
@[simp] theorem fieldStored_free (i : Fin 17) (v : Word) (s : State) : (fieldStored i v s).free = s.free := by
  unfold fieldStored; (repeat' split) <;> simp

@[simp] theorem advancePtr_pending (s : State) : (advancePtr s).pending = s.pending := rfl
@[simp] theorem advancePtr_mem (s : State) : (advancePtr s).mem = s.mem := rfl
@[simp] theorem advancePtr_queue (s : State) : (advancePtr s).queue = s.queue := rfl
@[simp] theorem advancePtr_host (s : State) : (advancePtr s).host = s.host := rfl
@[simp] theorem advancePtr_port (s : State) : (advancePtr s).port = s.port := rfl
@[simp] theorem advancePtr_scan (s : State) : (advancePtr s).scan = s.scan := rfl
@[simp] theorem advancePtr_panel (s : State) : (advancePtr s).panel = s.panel := rfl
@[simp] theorem advancePtr_mover (s : State) : (advancePtr s).mover = s.mover := rfl
@[simp] theorem advancePtr_clock (s : State) : (advancePtr s).clock = s.clock := rfl
@[simp] theorem advancePtr_pins (s : State) : (advancePtr s).pins = s.pins := rfl
@[simp] theorem advancePtr_free (s : State) : (advancePtr s).free = s.free := rfl

@[simp] theorem setupWritten_pending (data : Word) (lanes : Lanes) (s : State) : (setupWritten data lanes s).pending = s.pending := by
  unfold setupWritten; (repeat' split) <;> simp
@[simp] theorem setupWritten_mem (data : Word) (lanes : Lanes) (s : State) : (setupWritten data lanes s).mem = s.mem := by
  unfold setupWritten; (repeat' split) <;> simp
@[simp] theorem setupWritten_queue (data : Word) (lanes : Lanes) (s : State) : (setupWritten data lanes s).queue = s.queue := by
  unfold setupWritten; (repeat' split) <;> simp
@[simp] theorem setupWritten_host (data : Word) (lanes : Lanes) (s : State) : (setupWritten data lanes s).host = s.host := by
  unfold setupWritten; (repeat' split) <;> simp
@[simp] theorem setupWritten_port (data : Word) (lanes : Lanes) (s : State) : (setupWritten data lanes s).port = s.port := by
  unfold setupWritten; (repeat' split) <;> simp
@[simp] theorem setupWritten_panel (data : Word) (lanes : Lanes) (s : State) : (setupWritten data lanes s).panel = s.panel := by
  unfold setupWritten; (repeat' split) <;> simp
@[simp] theorem setupWritten_mover (data : Word) (lanes : Lanes) (s : State) : (setupWritten data lanes s).mover = s.mover := by
  unfold setupWritten; (repeat' split) <;> simp
@[simp] theorem setupWritten_clock (data : Word) (lanes : Lanes) (s : State) : (setupWritten data lanes s).clock = s.clock := by
  unfold setupWritten; (repeat' split) <;> simp
@[simp] theorem setupWritten_pins (data : Word) (lanes : Lanes) (s : State) : (setupWritten data lanes s).pins = s.pins := by
  unfold setupWritten; (repeat' split) <;> simp
@[simp] theorem setupWritten_free (data : Word) (lanes : Lanes) (s : State) : (setupWritten data lanes s).free = s.free := by
  unfold setupWritten; (repeat' split) <;> simp

@[simp] theorem wordWritten_pending (c : ControlWord) (data : Word) (lanes : Lanes) (s : State) : (wordWritten c data lanes s).pending = s.pending := by
  unfold wordWritten; split <;> simp
@[simp] theorem wordWritten_mem (c : ControlWord) (data : Word) (lanes : Lanes) (s : State) : (wordWritten c data lanes s).mem = s.mem := by
  unfold wordWritten; split <;> simp
@[simp] theorem wordWritten_port (c : ControlWord) (data : Word) (lanes : Lanes) (s : State) : (wordWritten c data lanes s).port = s.port := by
  unfold wordWritten; split <;> simp
@[simp] theorem wordWritten_panel (c : ControlWord) (data : Word) (lanes : Lanes) (s : State) : (wordWritten c data lanes s).panel = s.panel := by
  unfold wordWritten; split <;> simp
@[simp] theorem wordWritten_pins (c : ControlWord) (data : Word) (lanes : Lanes) (s : State) : (wordWritten c data lanes s).pins = s.pins := by
  unfold wordWritten; split <;> simp
@[simp] theorem wordWritten_free (c : ControlWord) (data : Word) (lanes : Lanes) (s : State) : (wordWritten c data lanes s).free = s.free := by
  unfold wordWritten; split <;> simp

@[simp] theorem controlTaken_pending (w : HostWrite) (s : State) : (controlTaken w s).pending = s.pending := by
  unfold controlTaken decoded; (repeat' split) <;> simp
@[simp] theorem controlTaken_mem (w : HostWrite) (s : State) : (controlTaken w s).mem = s.mem := by
  unfold controlTaken decoded; (repeat' split) <;> simp
@[simp] theorem controlTaken_port (w : HostWrite) (s : State) : (controlTaken w s).port = s.port := by
  unfold controlTaken decoded; (repeat' split) <;> simp
@[simp] theorem controlTaken_panel (w : HostWrite) (s : State) : (controlTaken w s).panel = s.panel := by
  unfold controlTaken decoded; (repeat' split) <;> simp
@[simp] theorem controlTaken_pins (w : HostWrite) (s : State) : (controlTaken w s).pins = s.pins := by
  unfold controlTaken decoded; (repeat' split) <;> simp
@[simp] theorem controlTaken_free (w : HostWrite) (s : State) : (controlTaken w s).free = s.free := by
  unfold controlTaken decoded; (repeat' split) <;> simp

@[simp] theorem drivePanel_pending (b : LineBuffer) (c : Nat) (half : Bool) (s : State) : (drivePanel b c half s).pending = s.pending := rfl
@[simp] theorem drivePanel_mem (b : LineBuffer) (c : Nat) (half : Bool) (s : State) : (drivePanel b c half s).mem = s.mem := rfl
@[simp] theorem drivePanel_queue (b : LineBuffer) (c : Nat) (half : Bool) (s : State) : (drivePanel b c half s).queue = s.queue := rfl
@[simp] theorem drivePanel_host (b : LineBuffer) (c : Nat) (half : Bool) (s : State) : (drivePanel b c half s).host = s.host := rfl
@[simp] theorem drivePanel_port (b : LineBuffer) (c : Nat) (half : Bool) (s : State) : (drivePanel b c half s).port = s.port := rfl
@[simp] theorem drivePanel_scan (b : LineBuffer) (c : Nat) (half : Bool) (s : State) : (drivePanel b c half s).scan = s.scan := rfl
@[simp] theorem drivePanel_mover (b : LineBuffer) (c : Nat) (half : Bool) (s : State) : (drivePanel b c half s).mover = s.mover := rfl
@[simp] theorem drivePanel_clock (b : LineBuffer) (c : Nat) (half : Bool) (s : State) : (drivePanel b c half s).clock = s.clock := rfl
@[simp] theorem drivePanel_ctl (b : LineBuffer) (c : Nat) (half : Bool) (s : State) : (drivePanel b c half s).ctl = s.ctl := rfl
@[simp] theorem drivePanel_pins (b : LineBuffer) (c : Nat) (half : Bool) (s : State) : (drivePanel b c half s).pins = s.pins := rfl

@[simp] theorem cutQueue_pending (s : State) : (cutQueue s).pending = s.pending := by
  unfold cutQueue; split <;> simp
@[simp] theorem cutQueue_mem (s : State) : (cutQueue s).mem = s.mem := by
  unfold cutQueue; split <;> simp
@[simp] theorem cutQueue_port (s : State) : (cutQueue s).port = s.port := by
  unfold cutQueue; split <;> simp
@[simp] theorem cutQueue_scan (s : State) : (cutQueue s).scan = s.scan := by
  unfold cutQueue; split <;> simp
@[simp] theorem cutQueue_panel (s : State) : (cutQueue s).panel = s.panel := by
  unfold cutQueue; split <;> simp
@[simp] theorem cutQueue_mover (s : State) : (cutQueue s).mover = s.mover := by
  unfold cutQueue; split <;> simp
@[simp] theorem cutQueue_clock (s : State) : (cutQueue s).clock = s.clock := by
  unfold cutQueue; split <;> simp
@[simp] theorem cutQueue_pins (s : State) : (cutQueue s).pins = s.pins := by
  unfold cutQueue; split <;> simp
@[simp] theorem cutQueue_free (s : State) : (cutQueue s).free = s.free := by
  unfold cutQueue; split <;> simp

@[simp] theorem cut_pending (s : State) : (cut s).pending = s.pending := by
  simp [cut]
@[simp] theorem cut_mem (s : State) : (cut s).mem = s.mem := by
  simp [cut]
@[simp] theorem cut_port (s : State) : (cut s).port = s.port := by
  simp [cut]
@[simp] theorem cut_mover (s : State) : (cut s).mover = s.mover := by
  simp [cut]
@[simp] theorem cut_pins (s : State) : (cut s).pins = s.pins := by
  simp [cut]
@[simp] theorem cut_free (s : State) : (cut s).free = s.free := by
  simp [cut]

@[simp] theorem lineSwitch_pending (n : BitVec 8) (s : State) : (lineSwitch n s).pending = s.pending := by
  simp only [lineSwitch]; (repeat' split) <;> first | rfl | simp
@[simp] theorem lineSwitch_mem (n : BitVec 8) (s : State) : (lineSwitch n s).mem = s.mem := by
  simp only [lineSwitch]; (repeat' split) <;> first | rfl | simp
@[simp] theorem lineSwitch_queue (n : BitVec 8) (s : State) : (lineSwitch n s).queue = s.queue := by
  simp only [lineSwitch]; (repeat' split) <;> first | rfl | simp
@[simp] theorem lineSwitch_host (n : BitVec 8) (s : State) : (lineSwitch n s).host = s.host := by
  simp only [lineSwitch]; (repeat' split) <;> first | rfl | simp
@[simp] theorem lineSwitch_port (n : BitVec 8) (s : State) : (lineSwitch n s).port = s.port := by
  simp only [lineSwitch]; (repeat' split) <;> first | rfl | simp
@[simp] theorem lineSwitch_mover (n : BitVec 8) (s : State) : (lineSwitch n s).mover = s.mover := by
  simp only [lineSwitch]; (repeat' split) <;> first | rfl | simp
@[simp] theorem lineSwitch_clock (n : BitVec 8) (s : State) : (lineSwitch n s).clock = s.clock := by
  simp only [lineSwitch]; (repeat' split) <;> first | rfl | simp
@[simp] theorem lineSwitch_pins (n : BitVec 8) (s : State) : (lineSwitch n s).pins = s.pins := by
  simp only [lineSwitch]; (repeat' split) <;> first | rfl | simp

@[simp] theorem beginLeadIn_pending (s : State) : (beginLeadIn s).pending = s.pending := rfl
@[simp] theorem beginLeadIn_mem (s : State) : (beginLeadIn s).mem = s.mem := rfl
@[simp] theorem beginLeadIn_queue (s : State) : (beginLeadIn s).queue = s.queue := rfl
@[simp] theorem beginLeadIn_host (s : State) : (beginLeadIn s).host = s.host := rfl
@[simp] theorem beginLeadIn_port (s : State) : (beginLeadIn s).port = s.port := rfl
@[simp] theorem beginLeadIn_mover (s : State) : (beginLeadIn s).mover = s.mover := rfl
@[simp] theorem beginLeadIn_clock (s : State) : (beginLeadIn s).clock = s.clock := rfl
@[simp] theorem beginLeadIn_ctl (s : State) : (beginLeadIn s).ctl = s.ctl := rfl
@[simp] theorem beginLeadIn_pins (s : State) : (beginLeadIn s).pins = s.pins := rfl
@[simp] theorem beginLeadIn_free (s : State) : (beginLeadIn s).free = s.free := rfl

@[simp] theorem extendGap_pending (waited : Bool) (s : State) : (extendGap waited s).pending = s.pending := rfl
@[simp] theorem extendGap_mem (waited : Bool) (s : State) : (extendGap waited s).mem = s.mem := rfl
@[simp] theorem extendGap_queue (waited : Bool) (s : State) : (extendGap waited s).queue = s.queue := rfl
@[simp] theorem extendGap_host (waited : Bool) (s : State) : (extendGap waited s).host = s.host := rfl
@[simp] theorem extendGap_port (waited : Bool) (s : State) : (extendGap waited s).port = s.port := rfl
@[simp] theorem extendGap_panel (waited : Bool) (s : State) : (extendGap waited s).panel = s.panel := rfl
@[simp] theorem extendGap_mover (waited : Bool) (s : State) : (extendGap waited s).mover = s.mover := rfl
@[simp] theorem extendGap_clock (waited : Bool) (s : State) : (extendGap waited s).clock = s.clock := rfl
@[simp] theorem extendGap_ctl (waited : Bool) (s : State) : (extendGap waited s).ctl = s.ctl := rfl
@[simp] theorem extendGap_pins (waited : Bool) (s : State) : (extendGap waited s).pins = s.pins := rfl
@[simp] theorem extendGap_free (waited : Bool) (s : State) : (extendGap waited s).free = s.free := rfl

@[simp] theorem checkGap_pending (s : State) : (checkGap s).pending = s.pending := by
  unfold checkGap; (repeat' split) <;> rfl
@[simp] theorem checkGap_mem (s : State) : (checkGap s).mem = s.mem := by
  unfold checkGap; (repeat' split) <;> rfl
@[simp] theorem checkGap_queue (s : State) : (checkGap s).queue = s.queue := by
  unfold checkGap; (repeat' split) <;> rfl
@[simp] theorem checkGap_host (s : State) : (checkGap s).host = s.host := by
  unfold checkGap; (repeat' split) <;> rfl
@[simp] theorem checkGap_port (s : State) : (checkGap s).port = s.port := by
  unfold checkGap; (repeat' split) <;> rfl
@[simp] theorem checkGap_mover (s : State) : (checkGap s).mover = s.mover := by
  unfold checkGap; (repeat' split) <;> rfl
@[simp] theorem checkGap_clock (s : State) : (checkGap s).clock = s.clock := by
  unfold checkGap; (repeat' split) <;> rfl
@[simp] theorem checkGap_pins (s : State) : (checkGap s).pins = s.pins := by
  unfold checkGap; (repeat' split) <;> rfl
@[simp] theorem checkGap_free (s : State) : (checkGap s).free = s.free := by
  unfold checkGap; (repeat' split) <;> rfl

@[simp] theorem countGap_pending (s : State) : (countGap s).pending = s.pending := by
  unfold countGap; split <;> simp
@[simp] theorem countGap_mem (s : State) : (countGap s).mem = s.mem := by
  unfold countGap; split <;> simp
@[simp] theorem countGap_queue (s : State) : (countGap s).queue = s.queue := by
  unfold countGap; split <;> simp
@[simp] theorem countGap_host (s : State) : (countGap s).host = s.host := by
  unfold countGap; split <;> simp
@[simp] theorem countGap_port (s : State) : (countGap s).port = s.port := by
  unfold countGap; split <;> simp
@[simp] theorem countGap_mover (s : State) : (countGap s).mover = s.mover := by
  unfold countGap; split <;> simp
@[simp] theorem countGap_clock (s : State) : (countGap s).clock = s.clock := by
  unfold countGap; split <;> simp
@[simp] theorem countGap_pins (s : State) : (countGap s).pins = s.pins := by
  unfold countGap; split <;> simp
@[simp] theorem countGap_free (s : State) : (countGap s).free = s.free := by
  unfold countGap; split <;> simp

@[simp] theorem enterDormant_pending (wake : Bool) (s : State) : (enterDormant wake s).pending = s.pending := by
  simp only [enterDormant]; (repeat' split) <;> first | rfl | simp
@[simp] theorem enterDormant_mem (wake : Bool) (s : State) : (enterDormant wake s).mem = s.mem := by
  simp only [enterDormant]; (repeat' split) <;> first | rfl | simp
@[simp] theorem enterDormant_queue (wake : Bool) (s : State) : (enterDormant wake s).queue = s.queue := by
  simp only [enterDormant]; (repeat' split) <;> first | rfl | simp
@[simp] theorem enterDormant_host (wake : Bool) (s : State) : (enterDormant wake s).host = s.host := by
  simp only [enterDormant]; (repeat' split) <;> first | rfl | simp
@[simp] theorem enterDormant_port (wake : Bool) (s : State) : (enterDormant wake s).port = s.port := by
  simp only [enterDormant]; (repeat' split) <;> first | rfl | simp
@[simp] theorem enterDormant_scan (wake : Bool) (s : State) : (enterDormant wake s).scan = s.scan := by
  simp only [enterDormant]; (repeat' split) <;> first | rfl | simp
@[simp] theorem enterDormant_panel (wake : Bool) (s : State) : (enterDormant wake s).panel = s.panel := by
  simp only [enterDormant]; (repeat' split) <;> first | rfl | simp
@[simp] theorem enterDormant_mover (wake : Bool) (s : State) : (enterDormant wake s).mover = s.mover := by
  simp only [enterDormant]; (repeat' split) <;> first | rfl | simp
@[simp] theorem enterDormant_pins (wake : Bool) (s : State) : (enterDormant wake s).pins = s.pins := by
  simp only [enterDormant]; (repeat' split) <;> first | rfl | simp
@[simp] theorem enterDormant_free (wake : Bool) (s : State) : (enterDormant wake s).free = s.free := by
  simp only [enterDormant]; (repeat' split) <;> first | rfl | simp

@[simp] theorem openPath_pending (wake : Bool) (s : State) : (openPath wake s).pending = s.pending := by
  simp only [openPath]; (repeat' split) <;> first | rfl | simp
@[simp] theorem openPath_mem (wake : Bool) (s : State) : (openPath wake s).mem = s.mem := by
  simp only [openPath]; (repeat' split) <;> first | rfl | simp
@[simp] theorem openPath_queue (wake : Bool) (s : State) : (openPath wake s).queue = s.queue := by
  simp only [openPath]; (repeat' split) <;> first | rfl | simp
@[simp] theorem openPath_host (wake : Bool) (s : State) : (openPath wake s).host = s.host := by
  simp only [openPath]; (repeat' split) <;> first | rfl | simp
@[simp] theorem openPath_port (wake : Bool) (s : State) : (openPath wake s).port = s.port := by
  simp only [openPath]; (repeat' split) <;> first | rfl | simp
@[simp] theorem openPath_scan (wake : Bool) (s : State) : (openPath wake s).scan = s.scan := by
  simp only [openPath]; (repeat' split) <;> first | rfl | simp
@[simp] theorem openPath_panel (wake : Bool) (s : State) : (openPath wake s).panel = s.panel := by
  simp only [openPath]; (repeat' split) <;> first | rfl | simp
@[simp] theorem openPath_mover (wake : Bool) (s : State) : (openPath wake s).mover = s.mover := by
  simp only [openPath]; (repeat' split) <;> first | rfl | simp
@[simp] theorem openPath_free (wake : Bool) (s : State) : (openPath wake s).free = s.free := by
  simp only [openPath]; (repeat' split) <;> first | rfl | simp

@[simp] theorem drainEnds_pending (wake : Bool) (s : State) : (drainEnds wake s).pending = s.pending := by
  simp only [drainEnds]; (repeat' split) <;> first | rfl | simp
@[simp] theorem drainEnds_mem (wake : Bool) (s : State) : (drainEnds wake s).mem = s.mem := by
  simp only [drainEnds]; (repeat' split) <;> first | rfl | simp
@[simp] theorem drainEnds_queue (wake : Bool) (s : State) : (drainEnds wake s).queue = s.queue := by
  simp only [drainEnds]; (repeat' split) <;> first | rfl | simp
@[simp] theorem drainEnds_port (wake : Bool) (s : State) : (drainEnds wake s).port = s.port := by
  simp only [drainEnds]; (repeat' split) <;> first | rfl | simp
@[simp] theorem drainEnds_panel (wake : Bool) (s : State) : (drainEnds wake s).panel = s.panel := by
  simp only [drainEnds]; (repeat' split) <;> first | rfl | simp
@[simp] theorem drainEnds_mover (wake : Bool) (s : State) : (drainEnds wake s).mover = s.mover := by
  simp only [drainEnds]; (repeat' split) <;> first | rfl | simp
@[simp] theorem drainEnds_free (wake : Bool) (s : State) : (drainEnds wake s).free = s.free := by
  simp only [drainEnds]; (repeat' split) <;> first | rfl | simp

@[simp] theorem drainCheck_pending (wake : Bool) (s : State) : (drainCheck wake s).pending = s.pending := by
  unfold drainCheck; split <;> simp
@[simp] theorem drainCheck_mem (wake : Bool) (s : State) : (drainCheck wake s).mem = s.mem := by
  unfold drainCheck; split <;> simp
@[simp] theorem drainCheck_queue (wake : Bool) (s : State) : (drainCheck wake s).queue = s.queue := by
  unfold drainCheck; split <;> simp
@[simp] theorem drainCheck_port (wake : Bool) (s : State) : (drainCheck wake s).port = s.port := by
  unfold drainCheck; split <;> simp
@[simp] theorem drainCheck_panel (wake : Bool) (s : State) : (drainCheck wake s).panel = s.panel := by
  unfold drainCheck; split <;> simp
@[simp] theorem drainCheck_mover (wake : Bool) (s : State) : (drainCheck wake s).mover = s.mover := by
  unfold drainCheck; split <;> simp
@[simp] theorem drainCheck_free (wake : Bool) (s : State) : (drainCheck wake s).free = s.free := by
  unfold drainCheck; split <;> simp

@[simp] theorem endLinePeriod_pending (s : State) : (endLinePeriod s).pending = s.pending := by
  simp only [endLinePeriod]; (repeat' split) <;> first | rfl | simp
@[simp] theorem endLinePeriod_mem (s : State) : (endLinePeriod s).mem = s.mem := by
  simp only [endLinePeriod]; (repeat' split) <;> first | rfl | simp
@[simp] theorem endLinePeriod_port (s : State) : (endLinePeriod s).port = s.port := by
  simp only [endLinePeriod]; (repeat' split) <;> first | rfl | simp
@[simp] theorem endLinePeriod_mover (s : State) : (endLinePeriod s).mover = s.mover := by
  simp only [endLinePeriod]; (repeat' split) <;> first | rfl | simp
@[simp] theorem endLinePeriod_pins (s : State) : (endLinePeriod s).pins = s.pins := by
  simp only [endLinePeriod]; (repeat' split) <;> first | rfl | simp

@[simp] theorem gapBoundary_pending (wake : Bool) (s : State) : (gapBoundary wake s).pending = s.pending := by
  unfold gapBoundary; (repeat' split) <;> simp
@[simp] theorem gapBoundary_mem (wake : Bool) (s : State) : (gapBoundary wake s).mem = s.mem := by
  unfold gapBoundary; (repeat' split) <;> simp
@[simp] theorem gapBoundary_queue (wake : Bool) (s : State) : (gapBoundary wake s).queue = s.queue := by
  unfold gapBoundary; (repeat' split) <;> simp
@[simp] theorem gapBoundary_port (wake : Bool) (s : State) : (gapBoundary wake s).port = s.port := by
  unfold gapBoundary; (repeat' split) <;> simp
@[simp] theorem gapBoundary_mover (wake : Bool) (s : State) : (gapBoundary wake s).mover = s.mover := by
  unfold gapBoundary; (repeat' split) <;> simp

@[simp] theorem boundary_pending (wake : Bool) (s : State) : (boundary wake s).pending = s.pending := by
  unfold boundary; split <;> simp
@[simp] theorem boundary_mem (wake : Bool) (s : State) : (boundary wake s).mem = s.mem := by
  unfold boundary; split <;> simp
@[simp] theorem boundary_port (wake : Bool) (s : State) : (boundary wake s).port = s.port := by
  unfold boundary; split <;> simp
@[simp] theorem boundary_mover (wake : Bool) (s : State) : (boundary wake s).mover = s.mover := by
  unfold boundary; split <;> simp

@[simp] theorem linePeriodBoundary_pending (wake : Bool) (s : State) : (linePeriodBoundary wake s).pending = s.pending := by
  unfold linePeriodBoundary; split <;> simp
@[simp] theorem linePeriodBoundary_mem (wake : Bool) (s : State) : (linePeriodBoundary wake s).mem = s.mem := by
  unfold linePeriodBoundary; split <;> simp
@[simp] theorem linePeriodBoundary_mover (wake : Bool) (s : State) : (linePeriodBoundary wake s).mover = s.mover := by
  unfold linePeriodBoundary; split <;> simp

@[simp] theorem handOver_pending (access : CutAccess) (s : State) : (handOver access s).pending = s.pending := by
  unfold handOver; (repeat' split) <;> simp
@[simp] theorem handOver_mem (access : CutAccess) (s : State) : (handOver access s).mem = s.mem := by
  unfold handOver; (repeat' split) <;> simp
@[simp] theorem handOver_panel (access : CutAccess) (s : State) : (handOver access s).panel = s.panel := by
  unfold handOver; (repeat' split) <;> simp
@[simp] theorem handOver_pins (access : CutAccess) (s : State) : (handOver access s).pins = s.pins := by
  unfold handOver; (repeat' split) <;> simp
@[simp] theorem handOver_free (access : CutAccess) (s : State) : (handOver access s).free = s.free := by
  unfold handOver; (repeat' split) <;> simp

@[simp] theorem firstCut_pending (access : CutAccess) (s : State) : (firstCut access s).pending = s.pending := by
  unfold firstCut; split <;> simp
@[simp] theorem firstCut_mem (access : CutAccess) (s : State) : (firstCut access s).mem = s.mem := by
  unfold firstCut; split <;> simp
@[simp] theorem firstCut_pins (access : CutAccess) (s : State) : (firstCut access s).pins = s.pins := by
  unfold firstCut; split <;> simp
@[simp] theorem firstCut_free (access : CutAccess) (s : State) : (firstCut access s).free = s.free := by
  unfold firstCut; split <;> simp

@[simp] theorem fetchLeaves_pending (line : BitVec 8) (b : LineBuffer) (s : State) : (fetchLeaves line b s).pending = s.pending := rfl
@[simp] theorem fetchLeaves_mem (line : BitVec 8) (b : LineBuffer) (s : State) : (fetchLeaves line b s).mem = s.mem := rfl
@[simp] theorem fetchLeaves_queue (line : BitVec 8) (b : LineBuffer) (s : State) : (fetchLeaves line b s).queue = s.queue := rfl
@[simp] theorem fetchLeaves_host (line : BitVec 8) (b : LineBuffer) (s : State) : (fetchLeaves line b s).host = s.host := rfl
@[simp] theorem fetchLeaves_panel (line : BitVec 8) (b : LineBuffer) (s : State) : (fetchLeaves line b s).panel = s.panel := rfl
@[simp] theorem fetchLeaves_mover (line : BitVec 8) (b : LineBuffer) (s : State) : (fetchLeaves line b s).mover = s.mover := rfl
@[simp] theorem fetchLeaves_clock (line : BitVec 8) (b : LineBuffer) (s : State) : (fetchLeaves line b s).clock = s.clock := rfl
@[simp] theorem fetchLeaves_ctl (line : BitVec 8) (b : LineBuffer) (s : State) : (fetchLeaves line b s).ctl = s.ctl := rfl
@[simp] theorem fetchLeaves_pins (line : BitVec 8) (b : LineBuffer) (s : State) : (fetchLeaves line b s).pins = s.pins := rfl
@[simp] theorem fetchLeaves_free (line : BitVec 8) (b : LineBuffer) (s : State) : (fetchLeaves line b s).free = s.free := rfl

@[simp] theorem fetchEnds_pending (line : BitVec 8) (s : State) : (fetchEnds line s).pending = s.pending := rfl
@[simp] theorem fetchEnds_mem (line : BitVec 8) (s : State) : (fetchEnds line s).mem = s.mem := rfl
@[simp] theorem fetchEnds_queue (line : BitVec 8) (s : State) : (fetchEnds line s).queue = s.queue := rfl
@[simp] theorem fetchEnds_host (line : BitVec 8) (s : State) : (fetchEnds line s).host = s.host := rfl
@[simp] theorem fetchEnds_panel (line : BitVec 8) (s : State) : (fetchEnds line s).panel = s.panel := rfl
@[simp] theorem fetchEnds_mover (line : BitVec 8) (s : State) : (fetchEnds line s).mover = s.mover := rfl
@[simp] theorem fetchEnds_clock (line : BitVec 8) (s : State) : (fetchEnds line s).clock = s.clock := rfl
@[simp] theorem fetchEnds_ctl (line : BitVec 8) (s : State) : (fetchEnds line s).ctl = s.ctl := rfl
@[simp] theorem fetchEnds_pins (line : BitVec 8) (s : State) : (fetchEnds line s).pins = s.pins := rfl
@[simp] theorem fetchEnds_free (line : BitVec 8) (s : State) : (fetchEnds line s).free = s.free := rfl

@[simp] theorem fetchAborts_pending (line : BitVec 8) (cycles : BitVec 10) (s : State) : (fetchAborts line cycles s).pending = s.pending := rfl
@[simp] theorem fetchAborts_mem (line : BitVec 8) (cycles : BitVec 10) (s : State) : (fetchAborts line cycles s).mem = s.mem := rfl
@[simp] theorem fetchAborts_queue (line : BitVec 8) (cycles : BitVec 10) (s : State) : (fetchAborts line cycles s).queue = s.queue := rfl
@[simp] theorem fetchAborts_host (line : BitVec 8) (cycles : BitVec 10) (s : State) : (fetchAborts line cycles s).host = s.host := rfl
@[simp] theorem fetchAborts_panel (line : BitVec 8) (cycles : BitVec 10) (s : State) : (fetchAborts line cycles s).panel = s.panel := rfl
@[simp] theorem fetchAborts_mover (line : BitVec 8) (cycles : BitVec 10) (s : State) : (fetchAborts line cycles s).mover = s.mover := rfl
@[simp] theorem fetchAborts_clock (line : BitVec 8) (cycles : BitVec 10) (s : State) : (fetchAborts line cycles s).clock = s.clock := rfl
@[simp] theorem fetchAborts_ctl (line : BitVec 8) (cycles : BitVec 10) (s : State) : (fetchAborts line cycles s).ctl = s.ctl := rfl
@[simp] theorem fetchAborts_pins (line : BitVec 8) (cycles : BitVec 10) (s : State) : (fetchAborts line cycles s).pins = s.pins := rfl
@[simp] theorem fetchAborts_free (line : BitVec 8) (cycles : BitVec 10) (s : State) : (fetchAborts line cycles s).free = s.free := rfl

@[simp] theorem holdAccess_pending (a : HostAccess) (s : State) : (holdAccess a s).pending = s.pending := rfl
@[simp] theorem holdAccess_mem (a : HostAccess) (s : State) : (holdAccess a s).mem = s.mem := rfl
@[simp] theorem holdAccess_queue (a : HostAccess) (s : State) : (holdAccess a s).queue = s.queue := rfl
@[simp] theorem holdAccess_port (a : HostAccess) (s : State) : (holdAccess a s).port = s.port := rfl
@[simp] theorem holdAccess_scan (a : HostAccess) (s : State) : (holdAccess a s).scan = s.scan := rfl
@[simp] theorem holdAccess_panel (a : HostAccess) (s : State) : (holdAccess a s).panel = s.panel := rfl
@[simp] theorem holdAccess_mover (a : HostAccess) (s : State) : (holdAccess a s).mover = s.mover := rfl
@[simp] theorem holdAccess_clock (a : HostAccess) (s : State) : (holdAccess a s).clock = s.clock := rfl
@[simp] theorem holdAccess_ctl (a : HostAccess) (s : State) : (holdAccess a s).ctl = s.ctl := rfl
@[simp] theorem holdAccess_pins (a : HostAccess) (s : State) : (holdAccess a s).pins = s.pins := rfl
@[simp] theorem holdAccess_free (a : HostAccess) (s : State) : (holdAccess a s).free = s.free := rfl

@[simp] theorem driveData_pending (w : Word) (s : State) : (driveData w s).pending = s.pending := rfl
@[simp] theorem driveData_mem (w : Word) (s : State) : (driveData w s).mem = s.mem := rfl
@[simp] theorem driveData_queue (w : Word) (s : State) : (driveData w s).queue = s.queue := rfl
@[simp] theorem driveData_port (w : Word) (s : State) : (driveData w s).port = s.port := rfl
@[simp] theorem driveData_scan (w : Word) (s : State) : (driveData w s).scan = s.scan := rfl
@[simp] theorem driveData_panel (w : Word) (s : State) : (driveData w s).panel = s.panel := rfl
@[simp] theorem driveData_mover (w : Word) (s : State) : (driveData w s).mover = s.mover := rfl
@[simp] theorem driveData_clock (w : Word) (s : State) : (driveData w s).clock = s.clock := rfl
@[simp] theorem driveData_ctl (w : Word) (s : State) : (driveData w s).ctl = s.ctl := rfl
@[simp] theorem driveData_pins (w : Word) (s : State) : (driveData w s).pins = s.pins := rfl
@[simp] theorem driveData_free (w : Word) (s : State) : (driveData w s).free = s.free := rfl

@[simp] theorem releaseHost_pending (s : State) : (releaseHost s).pending = s.pending := rfl
@[simp] theorem releaseHost_mem (s : State) : (releaseHost s).mem = s.mem := rfl
@[simp] theorem releaseHost_queue (s : State) : (releaseHost s).queue = s.queue := rfl
@[simp] theorem releaseHost_port (s : State) : (releaseHost s).port = s.port := rfl
@[simp] theorem releaseHost_scan (s : State) : (releaseHost s).scan = s.scan := rfl
@[simp] theorem releaseHost_panel (s : State) : (releaseHost s).panel = s.panel := rfl
@[simp] theorem releaseHost_mover (s : State) : (releaseHost s).mover = s.mover := rfl
@[simp] theorem releaseHost_clock (s : State) : (releaseHost s).clock = s.clock := rfl
@[simp] theorem releaseHost_ctl (s : State) : (releaseHost s).ctl = s.ctl := rfl
@[simp] theorem releaseHost_pins (s : State) : (releaseHost s).pins = s.pins := rfl
@[simp] theorem releaseHost_free (s : State) : (releaseHost s).free = s.free := rfl

@[simp] theorem preemptFetch_pending (cycle : BitVec 10) (s : State) : (preemptFetch cycle s).pending = s.pending := by
  unfold preemptFetch; (repeat' split) <;> rfl
@[simp] theorem preemptFetch_mem (cycle : BitVec 10) (s : State) : (preemptFetch cycle s).mem = s.mem := by
  unfold preemptFetch; (repeat' split) <;> rfl
@[simp] theorem preemptFetch_queue (cycle : BitVec 10) (s : State) : (preemptFetch cycle s).queue = s.queue := by
  unfold preemptFetch; (repeat' split) <;> rfl
@[simp] theorem preemptFetch_host (cycle : BitVec 10) (s : State) : (preemptFetch cycle s).host = s.host := by
  unfold preemptFetch; (repeat' split) <;> rfl
@[simp] theorem preemptFetch_scan (cycle : BitVec 10) (s : State) : (preemptFetch cycle s).scan = s.scan := by
  unfold preemptFetch; (repeat' split) <;> rfl
@[simp] theorem preemptFetch_panel (cycle : BitVec 10) (s : State) : (preemptFetch cycle s).panel = s.panel := by
  unfold preemptFetch; (repeat' split) <;> rfl
@[simp] theorem preemptFetch_mover (cycle : BitVec 10) (s : State) : (preemptFetch cycle s).mover = s.mover := by
  unfold preemptFetch; (repeat' split) <;> rfl
@[simp] theorem preemptFetch_clock (cycle : BitVec 10) (s : State) : (preemptFetch cycle s).clock = s.clock := by
  unfold preemptFetch; (repeat' split) <;> rfl
@[simp] theorem preemptFetch_ctl (cycle : BitVec 10) (s : State) : (preemptFetch cycle s).ctl = s.ctl := by
  unfold preemptFetch; (repeat' split) <;> rfl
@[simp] theorem preemptFetch_pins (cycle : BitVec 10) (s : State) : (preemptFetch cycle s).pins = s.pins := by
  unfold preemptFetch; (repeat' split) <;> rfl
@[simp] theorem preemptFetch_free (cycle : BitVec 10) (s : State) : (preemptFetch cycle s).free = s.free := by
  unfold preemptFetch; (repeat' split) <;> rfl

@[simp] theorem takeWrite_pending (w : HostWrite) (s : State) : (takeWrite w s).pending = s.pending := by
  unfold takeWrite; split <;> simp
@[simp] theorem takeWrite_mem (w : HostWrite) (s : State) : (takeWrite w s).mem = s.mem := by
  unfold takeWrite; split <;> simp
@[simp] theorem takeWrite_port (w : HostWrite) (s : State) : (takeWrite w s).port = s.port := by
  unfold takeWrite; split <;> simp
@[simp] theorem takeWrite_panel (w : HostWrite) (s : State) : (takeWrite w s).panel = s.panel := by
  unfold takeWrite; split <;> simp
@[simp] theorem takeWrite_pins (w : HostWrite) (s : State) : (takeWrite w s).pins = s.pins := by
  unfold takeWrite; split <;> simp
@[simp] theorem takeWrite_free (w : HostWrite) (s : State) : (takeWrite w s).free = s.free := by
  unfold takeWrite; split <;> simp

@[simp] theorem waitFor_pending (w : HostWrite) (why : WaitFor) (s : State) : (waitFor w why s).pending = s.pending := rfl
@[simp] theorem waitFor_mem (w : HostWrite) (why : WaitFor) (s : State) : (waitFor w why s).mem = s.mem := rfl
@[simp] theorem waitFor_queue (w : HostWrite) (why : WaitFor) (s : State) : (waitFor w why s).queue = s.queue := rfl
@[simp] theorem waitFor_port (w : HostWrite) (why : WaitFor) (s : State) : (waitFor w why s).port = s.port := rfl
@[simp] theorem waitFor_scan (w : HostWrite) (why : WaitFor) (s : State) : (waitFor w why s).scan = s.scan := rfl
@[simp] theorem waitFor_panel (w : HostWrite) (why : WaitFor) (s : State) : (waitFor w why s).panel = s.panel := rfl
@[simp] theorem waitFor_mover (w : HostWrite) (why : WaitFor) (s : State) : (waitFor w why s).mover = s.mover := rfl
@[simp] theorem waitFor_clock (w : HostWrite) (why : WaitFor) (s : State) : (waitFor w why s).clock = s.clock := rfl
@[simp] theorem waitFor_ctl (w : HostWrite) (why : WaitFor) (s : State) : (waitFor w why s).ctl = s.ctl := rfl
@[simp] theorem waitFor_pins (w : HostWrite) (why : WaitFor) (s : State) : (waitFor w why s).pins = s.pins := rfl
@[simp] theorem waitFor_free (w : HostWrite) (why : WaitFor) (s : State) : (waitFor w why s).free = s.free := rfl

@[simp] theorem carryOut_pending (w : HostWrite) (t : Treatment) (s : State) : (carryOut w t s).pending = s.pending := by
  unfold carryOut; split <;> simp
@[simp] theorem carryOut_mem (w : HostWrite) (t : Treatment) (s : State) : (carryOut w t s).mem = s.mem := by
  unfold carryOut; split <;> simp
@[simp] theorem carryOut_port (w : HostWrite) (t : Treatment) (s : State) : (carryOut w t s).port = s.port := by
  unfold carryOut; split <;> simp
@[simp] theorem carryOut_panel (w : HostWrite) (t : Treatment) (s : State) : (carryOut w t s).panel = s.panel := by
  unfold carryOut; split <;> simp
@[simp] theorem carryOut_pins (w : HostWrite) (t : Treatment) (s : State) : (carryOut w t s).pins = s.pins := by
  unfold carryOut; split <;> simp
@[simp] theorem carryOut_free (w : HostWrite) (t : Treatment) (s : State) : (carryOut w t s).free = s.free := by
  unfold carryOut; split <;> simp

@[simp] theorem decideWrite_pending (w : HostWrite) (s : State) : (decideWrite w s).pending = s.pending := by
  unfold decideWrite; split <;> simp
@[simp] theorem decideWrite_mem (w : HostWrite) (s : State) : (decideWrite w s).mem = s.mem := by
  unfold decideWrite; split <;> simp
@[simp] theorem decideWrite_port (w : HostWrite) (s : State) : (decideWrite w s).port = s.port := by
  unfold decideWrite; split <;> simp
@[simp] theorem decideWrite_panel (w : HostWrite) (s : State) : (decideWrite w s).panel = s.panel := by
  unfold decideWrite; split <;> simp
@[simp] theorem decideWrite_pins (w : HostWrite) (s : State) : (decideWrite w s).pins = s.pins := by
  unfold decideWrite; split <;> simp
@[simp] theorem decideWrite_free (w : HostWrite) (s : State) : (decideWrite w s).free = s.free := by
  unfold decideWrite; split <;> simp

@[simp] theorem beginStrapCheck_pending (s : State) : (beginStrapCheck s).pending = s.pending := rfl
@[simp] theorem beginStrapCheck_mem (s : State) : (beginStrapCheck s).mem = s.mem := rfl
@[simp] theorem beginStrapCheck_queue (s : State) : (beginStrapCheck s).queue = s.queue := rfl
@[simp] theorem beginStrapCheck_host (s : State) : (beginStrapCheck s).host = s.host := rfl
@[simp] theorem beginStrapCheck_port (s : State) : (beginStrapCheck s).port = s.port := rfl
@[simp] theorem beginStrapCheck_scan (s : State) : (beginStrapCheck s).scan = s.scan := rfl
@[simp] theorem beginStrapCheck_panel (s : State) : (beginStrapCheck s).panel = s.panel := rfl
@[simp] theorem beginStrapCheck_mover (s : State) : (beginStrapCheck s).mover = s.mover := rfl
@[simp] theorem beginStrapCheck_ctl (s : State) : (beginStrapCheck s).ctl = s.ctl := rfl
@[simp] theorem beginStrapCheck_pins (s : State) : (beginStrapCheck s).pins = s.pins := rfl
@[simp] theorem beginStrapCheck_free (s : State) : (beginStrapCheck s).free = s.free := rfl

end Sys2Proof.Machine
end

