-- ==== Sys2Proof/Laws/Ops.lean ====
section
/-! SUPPORT. Laws/Ops.lean: what raising an event and recording a command do, and what two states with the same parts agree on. -/

namespace Sys2Proof.Machine

/-- Two states are equal when all their parts are. -/
theorem State.ext_parts {s t : State} (h1 : s.pending = t.pending) (h2 : s.mem = t.mem) (h3 : s.queue = t.queue)
    (h4 : s.host = t.host) (h5 : s.port = t.port) (h6 : s.scan = t.scan) (h7 : s.panel = t.panel) (h8 : s.mover = t.mover)
    (h9 : s.clock = t.clock) (h10 : s.ctl = t.ctl) (h11 : s.pins = t.pins) (h12 : s.free = t.free) : s = t := by
  cases s; cases t; simp_all

/-! ### Words and their bytes (R170) -/

/-- The lane 0 byte of a word made of two bytes. -/
@[simp] theorem loByte_mkWord (b0 b1 : Byte) : loByte (mkWord b0 b1) = b0 := by
  simp only [loByte, mkWord]
  apply BitVec.eq_of_getLsbD_eq
  intro i hi
  have h := @BitVec.getLsbD_append 8 8 i b1 b0
  rw [if_pos hi] at h
  simpa [hi, BitVec.getLsbD_extractLsb'] using h

/-- The lane 1 byte of a word made of two bytes. -/
@[simp] theorem hiByte_mkWord (b0 b1 : Byte) : hiByte (mkWord b0 b1) = b1 := by
  simp only [hiByte, mkWord]
  apply BitVec.eq_of_getLsbD_eq
  intro i hi
  have h := @BitVec.getLsbD_append 8 8 (8 + i) b1 b0
  rw [if_neg (by omega), show 8 + i - 8 = i by omega] at h
  simpa [hi, BitVec.getLsbD_extractLsb'] using h

/-! ### Events -/

theorem raiseBit_frame (e : BitVec 13) : raiseBit e .frame = e ||| 0x0001#13 := rfl
theorem raiseBit_mark (e : BitVec 13) : raiseBit e .mark = e ||| 0x0002#13 := rfl
theorem raiseBit_spill (e : BitVec 13) : raiseBit e .spill = e ||| 0x0004#13 := rfl
theorem raiseBit_blanked (e : BitVec 13) : raiseBit e .blanked = e ||| 0x0008#13 := rfl
theorem raiseBit_moveDone (e : BitVec 13) : raiseBit e .moveDone = e ||| 0x0010#13 := rfl
theorem raiseBit_moveAbort (e : BitVec 13) : raiseBit e .moveAbort = e ||| 0x0020#13 := rfl
theorem raiseBit_clkDone (e : BitVec 13) : raiseBit e .clkDone = e ||| 0x0040#13 := rfl
theorem raiseBit_clkAbort (e : BitVec 13) : raiseBit e .clkAbort = e ||| 0x0080#13 := rfl
theorem raiseBit_clkFail (e : BitVec 13) : raiseBit e .clkFail = e ||| 0x0100#13 := rfl
theorem raiseBit_syncLost (e : BitVec 13) : raiseBit e .syncLost = e ||| 0x0200#13 := rfl
theorem raiseBit_stateChange (e : BitVec 13) : raiseBit e .stateChange = e ||| 0x0400#13 := rfl
theorem raiseBit_refused (e : BitVec 13) : raiseBit e .refused = e ||| 0x0800#13 := rfl
theorem raiseBit_visible (e : BitVec 13) : raiseBit e .visible = e ||| 0x1000#13 := rfl

/-- Raising an event sets its bit and no other (R165). -/
theorem eventSet_raiseBit (events : BitVec 13) (e f : Event) :
    eventSet (raiseBit events e) f = (decide (f = e) || eventSet events f) := by
  have h : ∀ i j : Fin 13, (BitVec.twoPow 13 i.val).getLsb j = decide (j = i) := by decide
  have hb : f.bit = e.bit ↔ f = e := by cases e <;> cases f <;> decide
  have hor : ∀ (x y : BitVec 13) (i : Fin 13), (x ||| y).getLsb i = (x.getLsb i || y.getLsb i) := by
    intro x y i; exact BitVec.getLsbD_or
  simp only [eventSet, raiseBit, hor, h, hb, Bool.or_comm]

theorem raise_ctl (e : Event) (s : State) : (raise e s).ctl = { s.ctl with events := raiseBit s.ctl.events e } := rfl

theorem raiseIf_true (e : Event) (s : State) : raiseIf true e s = raise e s := rfl
theorem raiseIf_false (e : Event) (s : State) : raiseIf false e s = s := rfl

/-! ### The command record -/

/-- An accepted command changes the record and nothing else (R155). -/
theorem recordCommand_accepted (code : Word) {r : Result} (h : r.accepted = true) (s : State) :
    recordCommand code r s = s.withCtl { s.ctl with lastCode := code, lastResult := r, count := s.ctl.count + 1 } := by
  simp [recordCommand, raiseIf, h]

/-- A refused command changes the record and raises REFUSED (R155, R166). -/
theorem recordCommand_refused (code : Word) {r : Result} (h : r.accepted = false) (s : State) :
    recordCommand code r s = s.withCtl { s.ctl with
      lastCode := code, lastResult := r, count := s.ctl.count + 1, events := raiseBit s.ctl.events .refused } := by
  simp [recordCommand, raiseIf, h, raise]

/-! ### Parts of the controller that the record does not touch -/

@[simp] theorem recordCommand_istate (code : Word) (r : Result) (s : State) :
    (recordCommand code r s).ctl.istate = s.ctl.istate := by
  unfold recordCommand raiseIf; split <;> rfl
@[simp] theorem recordCommand_setup (code : Word) (r : Result) (s : State) :
    (recordCommand code r s).ctl.setup = s.ctl.setup := by
  unfold recordCommand raiseIf; split <;> rfl
@[simp] theorem recordCommand_mode (code : Word) (r : Result) (s : State) :
    (recordCommand code r s).ctl.mode = s.ctl.mode := by
  unfold recordCommand raiseIf; split <;> rfl
@[simp] theorem recordCommand_args (code : Word) (r : Result) (s : State) :
    (recordCommand code r s).ctl.args = s.ctl.args := by
  unfold recordCommand raiseIf; split <;> rfl
@[simp] theorem recordCommand_lastCode (code : Word) (r : Result) (s : State) :
    (recordCommand code r s).ctl.lastCode = code := by
  unfold recordCommand raiseIf; split <;> rfl
@[simp] theorem recordCommand_lastResult (code : Word) (r : Result) (s : State) :
    (recordCommand code r s).ctl.lastResult = r := by
  unfold recordCommand raiseIf; split <;> rfl
@[simp] theorem recordCommand_count (code : Word) (r : Result) (s : State) :
    (recordCommand code r s).ctl.count = s.ctl.count + 1 := by
  unfold recordCommand raiseIf; split <;> rfl
/-- REFUSED aside, a command record leaves the events (R155). -/
theorem recordCommand_eventSet (code : Word) (r : Result) (s : State) (e : Event) (he : e ≠ .refused) :
    eventSet (recordCommand code r s).ctl.events e = eventSet s.ctl.events e := by
  unfold recordCommand raiseIf
  split
  · rw [raise_ctl, eventSet_raiseBit]; simp [he]
  · rfl

@[simp] theorem raise_istate (e : Event) (s : State) : (raise e s).ctl.istate = s.ctl.istate := rfl
@[simp] theorem raise_setup (e : Event) (s : State) : (raise e s).ctl.setup = s.ctl.setup := rfl
@[simp] theorem raise_mode (e : Event) (s : State) : (raise e s).ctl.mode = s.ctl.mode := rfl
@[simp] theorem raiseIf_istate (c : Bool) (e : Event) (s : State) : (raiseIf c e s).ctl.istate = s.ctl.istate := by
  unfold raiseIf; split <;> rfl
@[simp] theorem raiseIf_setup (c : Bool) (e : Event) (s : State) : (raiseIf c e s).ctl.setup = s.ctl.setup := by
  unfold raiseIf; split <;> rfl
@[simp] theorem raiseIf_mode (c : Bool) (e : Event) (s : State) : (raiseIf c e s).ctl.mode = s.ctl.mode := by
  unfold raiseIf; split <;> rfl
@[simp] theorem applyReadySwitch_istate (s : State) : (applyReadySwitch s).ctl.istate = s.ctl.istate := by
  unfold applyReadySwitch; split <;> rfl
@[simp] theorem applyReadySwitch_setup (s : State) : (applyReadySwitch s).ctl.setup = s.ctl.setup := by
  unfold applyReadySwitch; split <;> rfl
@[simp] theorem applyReadySwitch_mode (s : State) : (applyReadySwitch s).ctl.mode = s.ctl.mode := by
  unfold applyReadySwitch; split <;> rfl

/-! ### What the setup fields depend on -/

@[simp] theorem lines_withMem (s : State) (x : Memory) : (s.withMem x).lines = s.lines := rfl
@[simp] theorem lines_withQueue (s : State) (x : List Entry) : (s.withQueue x).lines = s.lines := rfl
@[simp] theorem lines_withHost (s : State) (x : HostBus) : (s.withHost x).lines = s.lines := rfl
@[simp] theorem lines_withPort (s : State) (x : Port) : (s.withPort x).lines = s.lines := rfl
@[simp] theorem lines_withScan (s : State) (x : Scan) : (s.withScan x).lines = s.lines := rfl
@[simp] theorem lines_withPanel (s : State) (x : Panel) : (s.withPanel x).lines = s.lines := rfl
@[simp] theorem lines_withMover (s : State) (x : Mover) : (s.withMover x).lines = s.lines := rfl
@[simp] theorem lines_withClock (s : State) (x : Clock) : (s.withClock x).lines = s.lines := rfl
@[simp] theorem lines_withPins (s : State) (x : Pins) : (s.withPins x).lines = s.lines := rfl
@[simp] theorem lines_withFree (s : State) (x : Nat) : (s.withFree x).lines = s.lines := rfl
@[simp] theorem lines_withPending (s : State) (x : List Instr) : (s.withPending x).lines = s.lines := rfl
@[simp] theorem lineWords_withMem (s : State) (x : Memory) : (s.withMem x).lineWords = s.lineWords := rfl
@[simp] theorem lineWords_withQueue (s : State) (x : List Entry) : (s.withQueue x).lineWords = s.lineWords := rfl
@[simp] theorem lineWords_withHost (s : State) (x : HostBus) : (s.withHost x).lineWords = s.lineWords := rfl
@[simp] theorem lineWords_withPort (s : State) (x : Port) : (s.withPort x).lineWords = s.lineWords := rfl
@[simp] theorem lineWords_withScan (s : State) (x : Scan) : (s.withScan x).lineWords = s.lineWords := rfl
@[simp] theorem lineWords_withPanel (s : State) (x : Panel) : (s.withPanel x).lineWords = s.lineWords := rfl
@[simp] theorem lineWords_withMover (s : State) (x : Mover) : (s.withMover x).lineWords = s.lineWords := rfl
@[simp] theorem lineWords_withClock (s : State) (x : Clock) : (s.withClock x).lineWords = s.lineWords := rfl
@[simp] theorem lineWords_withPins (s : State) (x : Pins) : (s.withPins x).lineWords = s.lineWords := rfl
@[simp] theorem lineWords_withFree (s : State) (x : Nat) : (s.withFree x).lineWords = s.lineWords := rfl
@[simp] theorem lineWords_withPending (s : State) (x : List Instr) : (s.withPending x).lineWords = s.lineWords := rfl
@[simp] theorem linePeriod_withMem (s : State) (x : Memory) : (s.withMem x).linePeriod = s.linePeriod := rfl
@[simp] theorem linePeriod_withQueue (s : State) (x : List Entry) : (s.withQueue x).linePeriod = s.linePeriod := rfl
@[simp] theorem linePeriod_withHost (s : State) (x : HostBus) : (s.withHost x).linePeriod = s.linePeriod := rfl
@[simp] theorem linePeriod_withPort (s : State) (x : Port) : (s.withPort x).linePeriod = s.linePeriod := rfl
@[simp] theorem linePeriod_withScan (s : State) (x : Scan) : (s.withScan x).linePeriod = s.linePeriod := rfl
@[simp] theorem linePeriod_withPanel (s : State) (x : Panel) : (s.withPanel x).linePeriod = s.linePeriod := rfl
@[simp] theorem linePeriod_withMover (s : State) (x : Mover) : (s.withMover x).linePeriod = s.linePeriod := rfl
@[simp] theorem linePeriod_withClock (s : State) (x : Clock) : (s.withClock x).linePeriod = s.linePeriod := rfl
@[simp] theorem linePeriod_withPins (s : State) (x : Pins) : (s.withPins x).linePeriod = s.linePeriod := rfl
@[simp] theorem linePeriod_withFree (s : State) (x : Nat) : (s.withFree x).linePeriod = s.linePeriod := rfl
@[simp] theorem linePeriod_withPending (s : State) (x : List Instr) : (s.withPending x).linePeriod = s.linePeriod := rfl
@[simp] theorem gapLines_withMem (s : State) (x : Memory) : (s.withMem x).gapLines = s.gapLines := rfl
@[simp] theorem gapLines_withQueue (s : State) (x : List Entry) : (s.withQueue x).gapLines = s.gapLines := rfl
@[simp] theorem gapLines_withHost (s : State) (x : HostBus) : (s.withHost x).gapLines = s.gapLines := rfl
@[simp] theorem gapLines_withPort (s : State) (x : Port) : (s.withPort x).gapLines = s.gapLines := rfl
@[simp] theorem gapLines_withScan (s : State) (x : Scan) : (s.withScan x).gapLines = s.gapLines := rfl
@[simp] theorem gapLines_withPanel (s : State) (x : Panel) : (s.withPanel x).gapLines = s.gapLines := rfl
@[simp] theorem gapLines_withMover (s : State) (x : Mover) : (s.withMover x).gapLines = s.gapLines := rfl
@[simp] theorem gapLines_withClock (s : State) (x : Clock) : (s.withClock x).gapLines = s.gapLines := rfl
@[simp] theorem gapLines_withPins (s : State) (x : Pins) : (s.withPins x).gapLines = s.gapLines := rfl
@[simp] theorem gapLines_withFree (s : State) (x : Nat) : (s.withFree x).gapLines = s.gapLines := rfl
@[simp] theorem gapLines_withPending (s : State) (x : List Instr) : (s.withPending x).gapLines = s.gapLines := rfl
@[simp] theorem syncLimit_withMem (s : State) (x : Memory) : (s.withMem x).syncLimit = s.syncLimit := rfl
@[simp] theorem syncLimit_withQueue (s : State) (x : List Entry) : (s.withQueue x).syncLimit = s.syncLimit := rfl
@[simp] theorem syncLimit_withHost (s : State) (x : HostBus) : (s.withHost x).syncLimit = s.syncLimit := rfl
@[simp] theorem syncLimit_withPort (s : State) (x : Port) : (s.withPort x).syncLimit = s.syncLimit := rfl
@[simp] theorem syncLimit_withScan (s : State) (x : Scan) : (s.withScan x).syncLimit = s.syncLimit := rfl
@[simp] theorem syncLimit_withPanel (s : State) (x : Panel) : (s.withPanel x).syncLimit = s.syncLimit := rfl
@[simp] theorem syncLimit_withMover (s : State) (x : Mover) : (s.withMover x).syncLimit = s.syncLimit := rfl
@[simp] theorem syncLimit_withClock (s : State) (x : Clock) : (s.withClock x).syncLimit = s.syncLimit := rfl
@[simp] theorem syncLimit_withPins (s : State) (x : Pins) : (s.withPins x).syncLimit = s.syncLimit := rfl
@[simp] theorem syncLimit_withFree (s : State) (x : Nat) : (s.withFree x).syncLimit = s.syncLimit := rfl
@[simp] theorem syncLimit_withPending (s : State) (x : List Instr) : (s.withPending x).syncLimit = s.syncLimit := rfl
@[simp] theorem eventEnable_withMem (s : State) (x : Memory) : (s.withMem x).eventEnable = s.eventEnable := rfl
@[simp] theorem eventEnable_withQueue (s : State) (x : List Entry) : (s.withQueue x).eventEnable = s.eventEnable := rfl
@[simp] theorem eventEnable_withHost (s : State) (x : HostBus) : (s.withHost x).eventEnable = s.eventEnable := rfl
@[simp] theorem eventEnable_withPort (s : State) (x : Port) : (s.withPort x).eventEnable = s.eventEnable := rfl
@[simp] theorem eventEnable_withScan (s : State) (x : Scan) : (s.withScan x).eventEnable = s.eventEnable := rfl
@[simp] theorem eventEnable_withPanel (s : State) (x : Panel) : (s.withPanel x).eventEnable = s.eventEnable := rfl
@[simp] theorem eventEnable_withMover (s : State) (x : Mover) : (s.withMover x).eventEnable = s.eventEnable := rfl
@[simp] theorem eventEnable_withClock (s : State) (x : Clock) : (s.withClock x).eventEnable = s.eventEnable := rfl
@[simp] theorem eventEnable_withPins (s : State) (x : Pins) : (s.withPins x).eventEnable = s.eventEnable := rfl
@[simp] theorem eventEnable_withFree (s : State) (x : Nat) : (s.withFree x).eventEnable = s.eventEnable := rfl
@[simp] theorem eventEnable_withPending (s : State) (x : List Instr) : (s.withPending x).eventEnable = s.eventEnable := rfl

/-! ### The checks depend on the setup record (R139, R146) -/

/-- The wake check reads the setup record only. -/
theorem wakeFault_congr {s t : State} (h : t.ctl.setup = s.ctl.setup) : wakeFault t = wakeFault s := by
  unfold wakeFault; rw [h]

/-- The checks of ENGAGE read the setup record and the CPS strap. -/
theorem engageFault_congr {s t : State} (h : t.ctl.setup = s.ctl.setup) (hp : t.pins.cps = s.pins.cps) :
    engageFault t = engageFault s := by
  unfold engageFault; rw [h, hp]

/-! ### Command codes (R153) -/

/-- Each command is named by its code. -/
theorem commandOfCode_code (c : Command) : commandOfCode c.code = some c := by cases c <;> decide

/-- A word that names a command is its code. -/
theorem code_of_commandOfCode {w : Word} {c : Command} (h : commandOfCode w = some c) : c.code = w := by
  have := List.find?_some h
  simpa using this

end Sys2Proof.Machine
end

