-- ==== Sys2Proof/Laws/HostAccess.lean ====
section
/-! SUPPORT. Laws/HostAccess.lean: the decision on a host write, the positions a write fills, and what does not depend on the host side of the
state. -/

namespace Sys2Proof.Machine

/-! ### What the host side of the state does not enter -/

@[simp] theorem sharing_withHost (s : State) (h : HostBus) : sharing (s.withHost h) = sharing s := rfl
@[simp] theorem classify_withHost (s : State) (h : HostBus) (a : WordAddr) : classify (s.withHost h) a = classify s a := rfl
@[simp] theorem writeGeneration_withHost (s : State) (h : HostBus) (a : WordAddr) :
    writeGeneration (s.withHost h) a = writeGeneration s a := rfl
@[simp] theorem blockClear_withHost (s : State) (h : HostBus) (b : BlockNo) : blockClear (s.withHost h) b = blockClear s b := rfl
@[simp] theorem spills_withHost (s : State) (h : HostBus) : spills (s.withHost h) = spills s := rfl
@[simp] theorem moverClaims_withHost (s : State) (h : HostBus) : moverClaims (s.withHost h) = moverClaims s := rfl
@[simp] theorem laneSource_withHost (s : State) (h : HostBus) (a : WordAddr) (odd : Bool) :
    laneSource (s.withHost h) a odd = laneSource s a odd := rfl
@[simp] theorem chosenWord_withHost (s : State) (h : HostBus) (a : WordAddr) : chosenWord (s.withHost h) a = chosenWord s a := rfl

/-- An access that is not busy makes no claim. -/
theorem HostAccess.claims_of_not_busy {a : HostAccess} (h : a.busy = false) : a.claims = false := by
  cases a <;> simp_all [HostAccess.busy, HostAccess.claims]

/-- Whether the port is free depends on the host side only through its claim. -/
theorem portFree_withHost {s : State} {h : HostBus} (hc : h.access.claims = s.host.access.claims) :
    portFree (s.withHost h) = portFree s := by
  simp only [portFree, claimWaiting, moverClaims_withHost, State.withHost_port, State.withHost_scan, State.withHost_host,
    State.withHost_mover, State.withHost_queue, hc]

/-- The treatment of a write depends on the host side only through its claim. -/
theorem treatment_withHost {s : State} {h : HostBus} (hc : h.access.claims = s.host.access.claims) (w : HostWrite) :
    treatment (s.withHost h) w = treatment s w := by
  have h3 : mayGoDirect (s.withHost h) w.addr = mayGoDirect s w.addr := by
    simp only [mayGoDirect, portFree_withHost hc, writeGeneration_withHost, State.withHost_mover, State.withHost_queue]
  simp only [treatment, postTreatment, drainTreatment, writeGeneration_withHost, blockClear_withHost, h3, State.withHost_ctl,
    State.withHost_queue]
  rfl

/-! ### A write that is presented -/

/-- In RUNNING and DRAINING a write is decided against the state at its presentation (R2). -/
theorem exec_hostWrite_sharing {s : State} (w : HostWrite) (hs : sharing s = true) (hb : s.host.access.busy = false) :
    exec (.hostWrite w.addr w.data w.lanes) s =
      .next (settle (decideWrite w (s.withHost ⟨.none, false, s.host.data⟩))) := by
  simp only [exec, execHostWrite, oneAtATime, hb, writePresented, hs, holdAccess]
  rfl

/-- A decision whose treatment needs no spill. -/
theorem decideWrite_of_not_full {s : State} {w : HostWrite} {t : Treatment} (ht : treatment s w = t) (hf : t ≠ .full) :
    decideWrite w s = carryOut w t s := by
  unfold decideWrite
  rw [if_neg (fun h => hf (ht ▸ h.1)), ht]

/-- A decision that finds the queue full and makes no spill holds the write (R24 to R27). -/
theorem decideWrite_of_full {s : State} {w : HostWrite} (ht : treatment s w = .full) (hs : spills s = false) :
    decideWrite w s = waitFor w .entryLeaves s := by
  unfold decideWrite
  rw [if_neg (fun h => by simp [hs] at h), ht]
  rfl

/-- The same with a state whose host side was replaced. -/
theorem decideWrite_presented {s : State} {w : HostWrite} {t : Treatment} (hb : s.host.access.busy = false)
    (ht : treatment s w = t) (hf : t ≠ .full) :
    decideWrite w (s.withHost ⟨.none, false, s.host.data⟩) = carryOut w t (s.withHost ⟨.none, false, s.host.data⟩) := by
  refine decideWrite_of_not_full ?_ hf
  rw [treatment_withHost _ w, ht]
  rw [HostAccess.claims_of_not_busy hb]
  rfl

/-! ### The bytes of a write -/

theorem writeBytes_length (w : HostWrite) : (writeBytes w).length = 16 := by simp [writeBytes]

/-- The positions a write fills: 2j and 2j + 1 for word j of its block, where the lane is enabled (R21). -/
theorem writeBytes_get (w : HostWrite) {k : Nat} (h : k < 16) :
    (writeBytes w)[k]? = some
      (if k = 2 * (w.addr.toNat % 8) ∧ w.lanes.lane0 = true then some (w.data.extractLsb' 0 8)
       else if k = 2 * (w.addr.toNat % 8) + 1 ∧ w.lanes.lane1 = true then some (w.data.extractLsb' 8 8) else none) := by
  have hr : (List.range 16)[k]? = some k := by simp [h]
  simp only [writeBytes, List.getElem?_map, hr, Option.map_some, wordInBlock, laneByte0, laneByte1, loByte, hiByte]
  by_cases h0 : k = 2 * (w.addr.toNat % 8)
  · have h1 : k ≠ 2 * (w.addr.toNat % 8) + 1 := by omega
    cases w.lanes.lane0 <;> simp [h0]
  · cases w.lanes.lane1 <;> simp [h0]

/-- Newer bytes over older ones, position by position (R22, R31). -/
theorem overlay_get {newer older : List (Option Byte)} {k : Nat} {n o : Option Byte} (hn : newer[k]? = some n)
    (ho : older[k]? = some o) : (overlay newer older)[k]? = some (n.or o) := by
  simp [overlay, List.getElem?_zipWith, hn, ho]

theorem overlay_length {newer older : List (Option Byte)} (h : newer.length = older.length) :
    (overlay newer older).length = older.length := by
  simp [overlay, h]

end Sys2Proof.Machine
end

