-- ==== Sys2Proof/Laws/Memory.lean ====
section
/-! SUPPORT. Laws/Memory.lean: every memory operation keeps the canonical form, and what a byte reads as after each. -/

namespace Sys2Proof.Machine

/-! ### The canonical form -/

theorem Memory.wfFrom_weaken {m : Memory} {lo lo' : Nat} (h : Memory.wfFrom lo m = true) (hle : lo' ≤ lo) :
    Memory.wfFrom lo' m = true := by
  cases m with
  | nil => rfl
  | cons c m =>
    obtain ⟨a, v⟩ := c
    simp only [Memory.wfFrom, Bool.and_eq_true, decide_eq_true_eq] at h ⊢
    exact ⟨⟨⟨Nat.le_trans hle h.1.1.1, h.1.1.2⟩, h.1.2⟩, h.2⟩

theorem Memory.wfFrom_writeByte (m : Memory) : ∀ {lo a : Nat} {v : Byte}, Memory.wfFrom lo m = true → lo ≤ a →
    a < Config.memoryBytes → Memory.wfFrom lo (Memory.writeByte m a v) = true := by
  induction m with
  | nil =>
    intro lo a v _ hle hlt
    unfold Memory.writeByte
    split <;> simp_all [Memory.wfFrom]
  | cons c m ih =>
    intro lo a v h hle hlt
    obtain ⟨k, x⟩ := c
    simp only [Memory.wfFrom, Bool.and_eq_true, decide_eq_true_eq] at h
    obtain ⟨⟨⟨h1, h2⟩, h3⟩, h4⟩ := h
    unfold Memory.writeByte
    split
    · split
      · simp_all [Memory.wfFrom]
      · simp only [Memory.wfFrom, Bool.and_eq_true, decide_eq_true_eq]
        exact ⟨⟨⟨hle, hlt⟩, by simpa⟩, ⟨⟨by omega, h2⟩, h3⟩, h4⟩
    · split
      · split
        · exact Memory.wfFrom_weaken h4 (by omega)
        · subst_vars; simp_all [Memory.wfFrom]
      · simp only [Memory.wfFrom, Bool.and_eq_true, decide_eq_true_eq]
        exact ⟨⟨⟨h1, h2⟩, h3⟩, ih h4 (by omega) hlt⟩

theorem laneAddr_lt (a : WordAddr) : laneAddr a + 1 < Config.memoryBytes := by
  have := a.isLt
  simp only [laneAddr, Config.memoryBytes]
  omega

theorem Memory.wf_writeOpt {m : Memory} {a : Nat} {b : Option Byte} (h : Memory.wf m = true)
    (ha : a < Config.memoryBytes) : Memory.wf (Memory.writeOpt m a b) = true := by
  cases b with
  | none => exact h
  | some v => exact Memory.wfFrom_writeByte m h (Nat.zero_le a) ha

theorem Memory.wf_writeLanes {m : Memory} (h : Memory.wf m = true) (a : WordAddr) (l0 l1 : Option Byte) :
    Memory.wf (Memory.writeLanes m a l0 l1) = true :=
  Memory.wf_writeOpt (Memory.wf_writeOpt h (Nat.lt_of_succ_lt (laneAddr_lt a))) (laneAddr_lt a)

theorem wf_apply {m : Memory} (h : Memory.wf m = true) (o : PortOp) : Memory.wf (o.apply m) = true := by
  cases o with
  | read a => exact h
  | write a l0 l1 => exact Memory.wf_writeLanes h a l0 l1

theorem wf_applyOps (ops : List PortOp) : ∀ {m : Memory}, Memory.wf m = true → Memory.wf (applyOps m ops) = true := by
  induction ops with
  | nil => exact id
  | cons o ops ih => exact fun h => ih (wf_apply h o)

theorem wf_writeMemory {m : Memory} (h : Memory.wf m = true) (w : HostWrite) : Memory.wf (writeMemory w m) = true :=
  wf_apply h (hostWriteOp w)

theorem wf_memAfterReset {s : State} (h : Memory.wf s.mem = true) (cycle : BitVec 10) (c : Bool) :
    Memory.wf (memAfterReset cycle c s) = true := by
  have hc : Memory.wf (cutTenureMem cycle c s) = true := by
    unfold cutTenureMem
    split
    · exact h
    · exact wf_applyOps _ h
  unfold memAfterReset
  split
  · exact wf_writeMemory hc _
  · exact hc

/-! ### Reading after writing -/

/-- Addresses below the first listed one read as unlisted. -/
theorem Memory.readByte_below (m : Memory) : ∀ {lo a : Nat}, Memory.wfFrom lo m = true → a < lo →
    Memory.readByte m a = Config.unwrittenByte := by
  induction m with
  | nil => intros; rfl
  | cons c m ih =>
    intro lo a h hlt
    obtain ⟨k, x⟩ := c
    simp only [Memory.wfFrom, Bool.and_eq_true, decide_eq_true_eq] at h
    unfold Memory.readByte
    rw [if_neg (by omega)]
    exact ih h.2 (by omega)

theorem Memory.readByte_writeByte_from (m : Memory) : ∀ {lo : Nat} (a b : Nat) (v : Byte), Memory.wfFrom lo m = true →
    Memory.readByte (Memory.writeByte m a v) b = if b = a then v else Memory.readByte m b := by
  induction m with
  | nil =>
    intro lo a b v _
    unfold Memory.writeByte
    split <;> simp_all [Memory.readByte]
  | cons c m ih =>
    intro lo a b v h
    obtain ⟨k, x⟩ := c
    simp only [Memory.wfFrom, Bool.and_eq_true, decide_eq_true_eq] at h
    have below : ∀ {c}, c < k + 1 → Memory.readByte m c = Config.unwrittenByte := fun hc => Memory.readByte_below m h.2 hc
    unfold Memory.writeByte
    split
    · split
      · simp only [Memory.readByte]
        split
        · rw [if_neg (by omega)]
        · split
          · subst_vars; exact below (by omega)
          · rfl
      · simp only [Memory.readByte]
    · split
      · split
        · subst_vars
          simp only [Memory.readByte]
          split
          · subst_vars; exact below (by omega)
          · rfl
        · subst_vars
          simp only [Memory.readByte]
          split <;> rfl
      · simp only [Memory.readByte, ih a b v h.2]
        split
        · rw [if_neg (by omega)]
        · rfl

/-- What a byte reads as after a byte is written. -/
theorem Memory.readByte_writeByte {m : Memory} (h : Memory.wf m = true) (a b : Nat) (v : Byte) :
    Memory.readByte (Memory.writeByte m a v) b = if b = a then v else Memory.readByte m b :=
  Memory.readByte_writeByte_from m a b v h

/-- What a byte reads as after a byte is written where there is one. -/
theorem Memory.readByte_writeOpt {m : Memory} (h : Memory.wf m = true) (a b : Nat) (o : Option Byte) :
    Memory.readByte (Memory.writeOpt m a o) b = if b = a then o.getD (Memory.readByte m b) else Memory.readByte m b := by
  cases o with
  | none => simp [Memory.writeOpt]
  | some v => simpa [Memory.writeOpt] using Memory.readByte_writeByte h a b v

/-- What a byte reads as after lanes of a word are written. -/
theorem Memory.readByte_writeLanes {m : Memory} (h : Memory.wf m = true) (a : WordAddr) (l0 l1 : Option Byte) (b : Nat) :
    Memory.readByte (Memory.writeLanes m a l0 l1) b =
      if b = laneAddr a then l0.getD (Memory.readByte m b)
      else if b = laneAddr a + 1 then l1.getD (Memory.readByte m b)
      else Memory.readByte m b := by
  unfold Memory.writeLanes
  rw [Memory.readByte_writeOpt (Memory.wf_writeOpt h (Nat.lt_of_succ_lt (laneAddr_lt a))), Memory.readByte_writeOpt h]
  split
  · rw [if_neg (by omega), if_neg (by omega)]
  · split <;> simp_all

/-- The byte addresses a port cycle writes. -/
def PortOp.touches (o : PortOp) (b : Nat) : Prop :=
  match o with
  | .read _ => False
  | .write a l0 l1 => (b = laneAddr a ∧ l0.isSome) ∨ (b = laneAddr a + 1 ∧ l1.isSome)

/-- A byte that no port cycle writes reads as before. -/
theorem readByte_applyOps_of_untouched (ops : List PortOp) : ∀ {m : Memory} {b : Nat}, Memory.wf m = true →
    (∀ o ∈ ops, ¬ o.touches b) → Memory.readByte (applyOps m ops) b = Memory.readByte m b := by
  induction ops with
  | nil => intros; rfl
  | cons o ops ih =>
    intro m b h hb
    have step : Memory.readByte (o.apply m) b = Memory.readByte m b := by
      have ho := hb o (by simp)
      cases o with
      | read a => rfl
      | write a l0 l1 =>
        simp only [PortOp.touches, not_or, not_and] at ho
        simp only [PortOp.apply, Memory.readByte_writeLanes h]
        split
        · cases l0 <;> simp_all
        · split
          · cases l1 <;> simp_all
          · rfl
    exact (ih (wf_apply h o) fun o' ho' => hb o' (by simp [ho'])).trans step

/-- The byte of a word at a byte address. -/
theorem extractLsb'_readWord (m : Memory) (a : WordAddr) (b : Nat) :
    (Memory.readWord m a).extractLsb' (8 * (b % 2)) 8 = Memory.readByte m (2 * a.toNat + b % 2) := by
  rcases Nat.mod_two_eq_zero_or_one b with h | h <;> rw [h]
  · exact loByte_mkWord _ _
  · exact hiByte_mkWord _ _

/-! ### Words written one after another (R109, R110) -/

/-- What a byte reads as after a word is written. -/
theorem readByte_writeWord {m : Memory} (h : Memory.wf m = true) (a : WordAddr) (w : Word) (b : Nat) :
    Memory.readByte ((writeWordOp a w).apply m) b =
      if b / 2 = a.toNat then w.extractLsb' (8 * (b % 2)) 8 else Memory.readByte m b := by
  show Memory.readByte (Memory.writeLanes m a (some (loByte w)) (some (hiByte w))) b = _
  rw [Memory.readByte_writeLanes h]
  unfold laneAddr
  by_cases h0 : b = 2 * a.toNat
  · rw [if_pos h0, if_pos (by omega), show b % 2 = 0 by omega]; rfl
  · by_cases h1 : b = 2 * a.toNat + 1
    · rw [if_neg h0, if_pos h1, if_pos (by omega), show b % 2 = 1 by omega]; rfl
    · rw [if_neg h0, if_neg h1, if_neg (by omega)]

/-- Port cycles take effect in their order. -/
theorem applyOps_append (m : Memory) (xs ys : List PortOp) : applyOps m (xs ++ ys) = applyOps (applyOps m xs) ys :=
  List.foldl_append

/-- The writes of `n` different words: each byte of word `addr i` takes its byte of `word i`, and no other byte changes (R109, R110). -/
theorem readByte_writeWords {m : Memory} (h : Memory.wf m = true) (addr : Nat → WordAddr) (word : Nat → Word) (n : Nat)
    (hd : ∀ i j, i < j → j < n → addr i ≠ addr j) (b : Nat) :
    (∀ i, i < n → b / 2 = (addr i).toNat →
      Memory.readByte (applyOps m ((List.range n).map fun i => writeWordOp (addr i) (word i))) b =
        (word i).extractLsb' (8 * (b % 2)) 8) ∧
    ((∀ i, i < n → b / 2 ≠ (addr i).toNat) →
      Memory.readByte (applyOps m ((List.range n).map fun i => writeWordOp (addr i) (word i))) b = Memory.readByte m b) := by
  induction n with
  | zero => exact ⟨fun i hi => absurd hi (Nat.not_lt_zero i), fun _ => rfl⟩
  | succ n ih =>
    obtain ⟨ih1, ih2⟩ := ih fun i j hij hj => hd i j hij (by omega)
    rw [List.range_succ, List.map_append, applyOps_append]
    have hw := wf_applyOps ((List.range n).map fun i => writeWordOp (addr i) (word i)) h
    have hlast := readByte_writeWord hw (addr n) (word n) b
    refine ⟨fun i hi hb => hlast.trans ?_, fun hn => hlast.trans ?_⟩
    · by_cases hin : i = n
      · rw [if_pos (hin ▸ hb), hin]
      · rw [if_neg (fun hb' => hd i n (by omega) (by omega) (BitVec.eq_of_toNat_eq (hb.symm.trans hb')))]
        exact ih1 i (by omega) hb
    · rw [if_neg (hn n (by omega))]
      exact ih2 fun i hi => hn i (by omega)

/-- Reads leave memory as it is. -/
theorem applyOps_reads (m : Memory) (as : List WordAddr) : applyOps m (as.map PortOp.read) = m := by
  induction as with
  | nil => rfl
  | cons a as ih => exact ih

end Sys2Proof.Machine
end

