-- ==== Sys2Proof/Laws/Queue.lean ====
section
/-! SUPPORT. Laws/Queue.lean: the operations of the Posted Write Queue: what each does to the entries, and that each keeps the queue sound. -/

namespace Sys2Proof.Machine

/-! ### Entries of a block and generation -/

/-- The queue is full when it holds 64 entries. -/
theorem queueFull_eq (q : List Entry) : queueFull q = decide (64 ≤ q.length) := rfl

theorem isOf_iff {b : BlockNo} {g : Generation} {e : Entry} : e.isOf b g = true ↔ e.block = b ∧ e.gen = g := by
  simp [Entry.isOf]

/-- An entry that is found is in the queue, of the block and of the generation. -/
theorem findEntry_some {q : List Entry} {b : BlockNo} {g : Generation} {e : Entry} (h : findEntry q b g = some e) :
    e ∈ q ∧ e.block = b ∧ e.gen = g :=
  ⟨List.mem_of_find?_eq_some h, isOf_iff.1 (List.find?_some h)⟩

theorem findEntry_none {q : List Entry} {b : BlockNo} {g : Generation} :
    findEntry q b g = none ↔ ∀ e ∈ q, ¬(e.block = b ∧ e.gen = g) := by
  simp only [findEntry, List.find?_eq_none, isOf_iff]

/-- Two entries of one block and generation do not stand in age order. -/
theorem not_inAgeOrder {x y : Entry} (hb : x.block = y.block) (hg : x.gen = y.gen) : ¬inAgeOrder x y := by
  intro h
  rcases h hb with ⟨h1, h2⟩ | ⟨h1, h2⟩
  · rw [hg] at h1; rw [h1] at h2; simp at h2
  · rw [hg] at h1; rw [h1] at h2; simp at h2

/-- A sound queue holds at most one entry of a block and generation (R20). -/
theorem unique_of_pairwise {q : List Entry} (h : q.Pairwise inAgeOrder) {x y : Entry} (hx : x ∈ q) (hy : y ∈ q)
    (hb : x.block = y.block) (hg : x.gen = y.gen) : x = y := by
  induction q with
  | nil => simp at hx
  | cons e q ih =>
    rw [List.pairwise_cons] at h
    rcases List.mem_cons.1 hx with rfl | hx' <;> rcases List.mem_cons.1 hy with rfl | hy'
    · rfl
    · exact absurd (h.1 y hy') (not_inAgeOrder hb hg)
    · exact absurd (h.1 x hx') (not_inAgeOrder hb.symm hg.symm)
    · exact ih h.2 hx' hy'

/-- In a sound queue an entry is the one found under its block and generation. -/
theorem findEntry_of_mem {q : List Entry} (h : q.Pairwise inAgeOrder) {e : Entry} (he : e ∈ q) :
    findEntry q e.block e.gen = some e := by
  cases hf : findEntry q e.block e.gen with
  | none => exact absurd ⟨rfl, rfl⟩ (findEntry_none.1 hf e he)
  | some x =>
    obtain ⟨hx, hb, hg⟩ := findEntry_some hf
    rw [unique_of_pairwise h hx he hb hg]

/-! ### Soundness under changes of bytes, of generations, and under removal -/

/-- A change of bytes only keeps a queue sound where it keeps its entries sound. -/
theorem QueueSound.mapBytes {q : List Entry} (h : QueueSound q) (f : Entry → Entry)
    (hf : ∀ e, (f e).block = e.block ∧ (f e).gen = e.gen ∧ (f e).state = e.state) (hs : ∀ e ∈ q, (f e).sound) :
    QueueSound (q.map f) := by
  obtain ⟨h1, _, h3, h4⟩ := h
  refine ⟨by simpa using h1, ?_, ?_, ?_⟩
  · intro e he
    obtain ⟨x, hx, rfl⟩ := List.mem_map.1 he
    exact hs x hx
  · rw [List.pairwise_map]
    refine h3.imp ?_
    intro a b hab
    unfold inAgeOrder at *
    rw [(hf a).1, (hf b).1, (hf a).2.1, (hf b).2.1]
    exact hab
  · have hw : Entry.isWriting ∘ f = Entry.isWriting := by
      funext e; simp [Entry.isWriting, (hf e).2.2]
    rw [List.filter_map, hw, List.length_map]
    exact h4

/-- Removing entries keeps a queue sound. -/
theorem QueueSound.filter {q : List Entry} (h : QueueSound q) (p : Entry → Bool) : QueueSound (q.filter p) := by
  obtain ⟨h1, h2, h3, h4⟩ := h
  refine ⟨Nat.le_trans (List.length_filter_le p q) h1, ?_, h3.filter p, ?_⟩
  · intro e he; exact h2 e (List.mem_filter.1 he).1
  · exact Nat.le_trans ((List.filter_sublist (l := q) (p := p)).filter Entry.isWriting).length_le h4

/-- Relabelling a generation keeps a queue sound where it keeps the age order of its entries and no entry of it is WRITING. -/
theorem QueueSound.relabel {q : List Entry} (h : QueueSound q) (g g' : Generation)
    (hw : ∀ e ∈ q, e.gen = g → e.state = .writing → g' = .direct ∨ g' = .retiring)
    (ho : ∀ x ∈ q, ∀ y ∈ q, inAgeOrder x y →
      inAgeOrder (if x.gen = g then { x with gen := g' } else x) (if y.gen = g then { y with gen := g' } else y)) :
    QueueSound (relabel g g' q) := by
  obtain ⟨h1, h2, h3, h4⟩ := h
  refine ⟨by simpa [Machine.relabel] using h1, ?_, ?_, ?_⟩
  · intro e he
    obtain ⟨x, hx, rfl⟩ := List.mem_map.1 he
    obtain ⟨a, b, c⟩ := h2 x hx
    by_cases hg : x.gen = g
    · rw [if_pos hg]; exact ⟨a, b, hw x hx hg⟩
    · rw [if_neg hg]; exact ⟨a, b, c⟩
  · unfold Machine.relabel
    rw [List.pairwise_map]
    exact h3.imp_of_mem (fun hx hy hxy => ho _ hx _ hy hxy)
  · have hs : Entry.isWriting ∘ (fun e : Entry => if e.gen = g then { e with gen := g' } else e) = Entry.isWriting := by
      funext e; simp only [Function.comp, Entry.isWriting]; split <;> rfl
    unfold Machine.relabel
    rw [List.filter_map, hs, List.length_map]
    exact h4

/-! ### Merging and posting (R21, R22) -/

/-- Newer bytes over older ones mark at least what the older ones mark. -/
theorem overlay_any {newer older : List (Option Byte)} (h : newer.length = older.length) (ho : older.any Option.isSome = true) :
    (overlay newer older).any Option.isSome = true := by
  induction older generalizing newer with
  | nil => simp at ho
  | cons o os ih =>
    cases newer with
    | nil => simp at h
    | cons n ns =>
      simp only [overlay, List.zipWith_cons_cons, List.any_cons, Bool.or_eq_true] at *
      rcases ho with ho | ho
      · left; cases n <;> simp_all
      · right; exact ih (by simpa using h) ho

/-- A merge keeps the queue sound (R22). -/
theorem QueueSound.mergeWrite {q : List Entry} (h : QueueSound q) (w : HostWrite) (g : Generation) :
    QueueSound (mergeWrite q w g) := by
  refine h.mapBytes _ ?_ ?_
  · intro e; split <;> exact ⟨rfl, rfl, rfl⟩
  · intro e he
    obtain ⟨a, b, c⟩ := h.2.1 e he
    split
    · refine ⟨?_, ?_, c⟩
      · rw [overlay_length (by rw [writeBytes_length, a]), a]
      · exact overlay_any (by rw [writeBytes_length, a]) b
    · exact ⟨a, b, c⟩

/-- A new entry is sound where the write enables a byte. -/
theorem newEntry_sound {w : HostWrite} (h : w.lanes.empty = false) (g : Generation) : (newEntry w g).sound := by
  refine ⟨writeBytes_length w, ?_, by simp [newEntry]⟩
  have hj : w.addr.toNat % 8 < 8 := Nat.mod_lt _ (by omega)
  simp only [newEntry, List.any_eq_true]
  cases h0 : w.lanes.lane0 with
  | true =>
    refine ⟨some (w.data.extractLsb' 0 8), ?_, rfl⟩
    apply List.mem_of_getElem? (i := 2 * (w.addr.toNat % 8))
    rw [writeBytes_get w (by omega), if_pos ⟨rfl, h0⟩]
  | false =>
    have h1 : w.lanes.lane1 = true := by simpa [Lanes.empty, h0] using h
    refine ⟨some (w.data.extractLsb' 8 8), ?_, rfl⟩
    apply List.mem_of_getElem? (i := 2 * (w.addr.toNat % 8) + 1)
    rw [writeBytes_get w (by omega), if_neg (by simp [h0]), if_pos ⟨rfl, h1⟩]

/-- Posting keeps the queue sound where it is not full and every entry of the block is ahead in the order of R20. -/
theorem QueueSound.postWrite {q : List Entry} (h : QueueSound q) (w : HostWrite) (g : Generation) (hl : w.lanes.empty = false)
    (hf : q.length < 64) (ho : ∀ e ∈ q, inAgeOrder e (newEntry w g)) : QueueSound (postWrite q w g) := by
  obtain ⟨h1, h2, h3, h4⟩ := h
  refine ⟨?_, ?_, ?_, ?_⟩
  · simp only [Machine.postWrite, List.length_append, List.length_singleton, Config.queueDepth]; omega
  · intro e he
    rcases List.mem_append.1 he with he | he
    · exact h2 e he
    · rw [List.mem_singleton.1 he]; exact newEntry_sound hl g
  · unfold Machine.postWrite
    rw [List.pairwise_append]
    refine ⟨h3, List.pairwise_singleton _ _, ?_⟩
    intro a ha b hb
    rw [List.mem_singleton.1 hb]; exact ho a ha
  · have : (newEntry w g).isWriting = false := rfl
    simpa [Machine.postWrite, List.filter_append, this] using h4

/-! ### Retirement (R37, R38, R40) -/

/-- At a grant the oldest eligible entry becomes WRITING, and the others stay. -/
theorem startRetire_split {m : Mover} {older younger : List Entry} {e : Entry} (he : eligible m e = true)
    (ho : ∀ x ∈ older, eligible m x = false) :
    startRetire m (older ++ e :: younger) = older ++ { e with state := .writing } :: younger := by
  induction older with
  | nil => simp [startRetire, he]
  | cons a l ih =>
    simp only [List.cons_append, startRetire]
    rw [if_neg (by simp [ho a (by simp)]), ih (fun x hx => ho x (by simp [hx]))]

/-- A queue that claims the port splits at its oldest eligible entry. -/
theorem split_of_claims {m : Mover} {q : List Entry} (h : q.any (eligible m) = true) :
    ∃ older e younger, q = older ++ e :: younger ∧ eligible m e = true ∧ ∀ x ∈ older, eligible m x = false := by
  induction q with
  | nil => simp at h
  | cons a q ih =>
    cases ha : eligible m a with
    | true => exact ⟨[], a, q, rfl, ha, by simp⟩
    | false =>
      rw [List.any_cons, ha, Bool.false_or] at h
      obtain ⟨older, e, younger, rfl, he, ho⟩ := ih h
      refine ⟨a :: older, e, younger, rfl, he, ?_⟩
      intro x hx
      rcases List.mem_cons.1 hx with rfl | hx
      · exact ha
      · exact ho x hx

/-- An eligible entry is HELD, DIRECT or RETIRING, and not blocked (R37). -/
theorem eligible_iff {m : Mover} {e : Entry} :
    eligible m e = true ↔ (e.gen = .direct ∨ e.gen = .retiring) ∧ e.state = .held ∧ blocked m e = false := by
  simp [eligible, and_assoc]

/-- A grant to a queue with no WRITING entry keeps it sound (R38). -/
theorem QueueSound.startRetire {q : List Entry} (h : QueueSound q) {m : Mover} (hc : queueClaims m q = true) :
    QueueSound (startRetire m q) := by
  simp only [queueClaims, Bool.and_eq_true, Bool.not_eq_true'] at hc
  obtain ⟨older, e, younger, rfl, he, ho⟩ := split_of_claims hc.1
  rw [startRetire_split he ho]
  obtain ⟨h1, h2, h3, h4⟩ := h
  have hn : ∀ l : List Entry, l.any Entry.isWriting = false → l.filter Entry.isWriting = [] := by
    intro l hl; rw [List.filter_eq_nil_iff]; intro x hx; simpa using (List.any_eq_false.1 hl) x hx
  have hw := hc.2
  rw [List.any_append, List.any_cons, Bool.or_eq_false_iff, Bool.or_eq_false_iff] at hw
  refine ⟨by simpa using h1, ?_, ?_, ?_⟩
  · intro x hx
    rw [List.mem_append, List.mem_cons] at hx
    rcases hx with hx | rfl | hx
    · exact h2 x (by simp [hx])
    · obtain ⟨a, b, _⟩ := h2 e (by simp)
      exact ⟨a, b, fun _ => (eligible_iff.1 he).1⟩
    · exact h2 x (by simp [hx])
  · rw [List.pairwise_append, List.pairwise_cons] at *
    obtain ⟨p1, p2, p3⟩ := h3
    refine ⟨p1, ⟨fun y hy => p2.1 y hy, p2.2⟩, ?_⟩
    intro a ha b hb
    rcases List.mem_cons.1 hb with rfl | hb
    · exact p3 a ha e (by simp)
    · exact p3 a ha b (by simp [hb])
  · rw [List.filter_append, List.filter_cons, hn _ hw.1, hn _ hw.2.2]
    simp only [List.nil_append]
    split <;> simp

/-- After a grant the queue holds a WRITING entry. -/
theorem startRetire_writing {q : List Entry} {m : Mover} (h : q.any (eligible m) = true) :
    (startRetire m q).any Entry.isWriting = true := by
  obtain ⟨older, e, younger, rfl, he, ho⟩ := split_of_claims h
  rw [startRetire_split he ho]
  simp [Entry.isWriting]

/-- The end of a retire tenure keeps the queue sound (R40). -/
theorem QueueSound.removeWriting {q : List Entry} (h : QueueSound q) : QueueSound (removeWriting q) := h.filter _

/-- After the end of a retire tenure no entry is WRITING. -/
theorem removeWriting_held (q : List Entry) : (removeWriting q).any Entry.isWriting = false := by
  rw [List.any_eq_false]
  intro x hx
  have := (List.mem_filter.1 hx).2
  simpa using this

/-- The WRITING entry leaves and the others stay, in their order (R40). -/
theorem removeWriting_split {older younger : List Entry} {e : Entry} (he : e.state = .writing)
    (hh : ∀ x ∈ older ++ younger, x.state = .held) : removeWriting (older ++ e :: younger) = older ++ younger := by
  have hk : ∀ l : List Entry, (∀ x ∈ l, x.state = .held) → l.filter (fun x => !x.isWriting) = l := by
    intro l hl; rw [List.filter_eq_self]; intro x hx; simp [Entry.isWriting, hl x hx]
  unfold removeWriting
  rw [List.filter_append, List.filter_cons, hk older (fun x hx => hh x (by simp [hx])),
    hk younger (fun x hx => hh x (by simp [hx]))]
  simp [Entry.isWriting, he]

/-- The WRITING entry is the one found. -/
theorem writingEntry_split {older younger : List Entry} {e : Entry} (he : e.state = .writing)
    (hh : ∀ x ∈ older, x.state = .held) : writingEntry (older ++ e :: younger) = some e := by
  unfold writingEntry
  rw [List.find?_append, List.find?_eq_none.2 (by intro x hx; simp [Entry.isWriting, hh x hx])]
  simp [Entry.isWriting, he]

/-! ### COMMIT and the shifts (R31, R34, R35) -/

/-- No OPEN entry is left after a commit (R31). -/
theorem commitQueue_no_open (q : List Entry) : hasGen (commitQueue q) .opn = false := by
  simp only [hasGen, commitQueue, relabel, List.any_eq_false, List.mem_map]
  rintro x ⟨e, _, rfl⟩
  split <;> simp_all

/-- Folding keeps the queue sound (R31). -/
theorem QueueSound.foldOpen {q : List Entry} (h : QueueSound q) : QueueSound (foldOpen q) := by
  unfold Machine.foldOpen
  refine (h.filter _).mapBytes _ ?_ ?_
  · intro e
    unfold foldInto
    split
    · split <;> exact ⟨rfl, rfl, rfl⟩
    · exact ⟨rfl, rfl, rfl⟩
  · intro e he
    obtain ⟨a, b, c⟩ := h.2.1 e (List.mem_filter.1 he).1
    unfold foldInto
    split
    · rename_i o ho
      obtain ⟨a', _, _⟩ := h.2.1 o (findEntry_some ho).1
      split
      · exact ⟨by rw [overlay_length (by rw [a, a']), a], overlay_any (by rw [a, a']) b, c⟩
      · exact ⟨a, b, c⟩
    · exact ⟨a, b, c⟩

/-- After folding, no block has both an OPEN and a PENDING entry (R31). -/
theorem foldOpen_apart {q : List Entry} {x y : Entry} (hx : x ∈ foldOpen q) (hy : y ∈ foldOpen q) (ho : x.gen = .opn)
    (hp : y.gen = .pending) : x.block ≠ y.block := by
  have key : ∀ e, (foldInto q e).gen = e.gen ∧ (foldInto q e).block = e.block := by
    intro e; unfold foldInto; split
    · split <;> exact ⟨rfl, rfl⟩
    · exact ⟨rfl, rfl⟩
  obtain ⟨a, ha, rfl⟩ := List.mem_map.1 hx
  obtain ⟨b, hb, rfl⟩ := List.mem_map.1 hy
  rw [(key a).1] at ho
  rw [(key b).1] at hp
  rw [(key a).2, (key b).2]
  intro hbl
  have hf : folds q a = false := by simpa using (List.mem_filter.1 ha).2
  simp only [folds, ho] at hf
  have : findEntry q a.block .pending = none := by simpa using hf
  exact findEntry_none.1 this b (List.mem_filter.1 hb).1 ⟨hbl.symm, hp⟩

/-- A commit keeps the queue sound (R31). -/
theorem QueueSound.commitQueue {q : List Entry} (h : QueueSound q) : QueueSound (commitQueue q) := by
  unfold Machine.commitQueue
  refine h.foldOpen.relabel _ _ ?_ ?_
  · intro e he hg hw
    rcases (h.foldOpen.2.1 e he).2.2 hw with h' | h' <;> rw [hg] at h' <;> cases h'
  · intro x hx y hy hxy
    unfold inAgeOrder at *
    intro hb
    have hb' : x.block = y.block := by
      revert hb; split <;> split <;> exact id
    have hor := hxy hb'
    by_cases h1 : x.gen = .opn
    · rw [h1] at hor; simp at hor
    · by_cases h2 : y.gen = .opn
      · rw [if_neg h1, if_pos h2]
        have hp : x.gen ≠ .pending := fun hp => foldOpen_apart hy hx h2 hp hb'.symm
        rcases hor with ⟨a, _⟩ | ⟨a, _⟩
        · exact Or.inl ⟨a, Or.inl rfl⟩
        · exact absurd a hp
      · rw [if_neg h1, if_neg h2]; exact hor

/-- Relabelling to RETIRING keeps a queue with no RETIRING entry sound where no block mixes the generation with another that is older in it
(R34). -/
theorem QueueSound.toRetiring {q : List Entry} (h : QueueSound q) (g : Generation)
    (ha : ∀ x ∈ q, ∀ y ∈ q, y.gen = g → inAgeOrder x y → x.block ≠ y.block) : QueueSound (Machine.relabel g .retiring q) := by
  refine h.relabel _ _ (fun _ _ _ _ => Or.inr rfl) ?_
  intro x hx y hy hxy hb
  have hb' : x.block = y.block := by
    revert hb; split <;> split <;> exact id
  by_cases h2 : y.gen = g
  · exact absurd hb' (ha x hx y hy h2 hxy)
  · rw [if_neg h2]
    rcases hxy hb' with ⟨a, b⟩ | ⟨a, b⟩
    · left
      refine ⟨?_, b⟩
      split
      · rfl
      · exact a
    · by_cases h1 : x.gen = g
      · rw [if_pos h1]; exact Or.inl ⟨rfl, Or.inr b⟩
      · rw [if_neg h1]; exact Or.inr ⟨a, b⟩

/-! ### What a commit leaves (R28, R31) -/

/-- Folding changes bytes only. -/
theorem foldInto_frame (q : List Entry) (e : Entry) :
    (foldInto q e).block = e.block ∧ (foldInto q e).gen = e.gen ∧ (foldInto q e).state = e.state := by
  unfold foldInto
  split
  · split <;> exact ⟨rfl, rfl, rfl⟩
  · exact ⟨rfl, rfl, rfl⟩

/-- The generation an entry has after a commit (R31). -/
def committedGen (g : Generation) : Generation := if g = .opn then .pending else g

/-- Every entry after a commit comes from one of the queue, with its block and state. -/
theorem of_mem_commitQueue {q : List Entry} {e : Entry} (h : e ∈ commitQueue q) :
    ∃ y ∈ q, e.block = y.block ∧ e.state = y.state ∧ e.gen = committedGen y.gen := by
  simp only [commitQueue, relabel, foldOpen, List.mem_map, List.mem_filter] at h
  obtain ⟨x, ⟨y, ⟨hy, _⟩, rfl⟩, rfl⟩ := h
  obtain ⟨h1, h2, h3⟩ := foldInto_frame q y
  refine ⟨y, hy, ?_⟩
  unfold committedGen
  split <;> simp_all

/-- Every entry that is not folded is still there after a commit. -/
theorem mem_commitQueue {q : List Entry} {y : Entry} (h : y ∈ q) (hf : folds q y = false) :
    ∃ e ∈ commitQueue q, e.block = y.block ∧ e.state = y.state ∧ e.gen = committedGen y.gen := by
  obtain ⟨h1, h2, h3⟩ := foldInto_frame q y
  refine ⟨if (foldInto q y).gen = .opn then { foldInto q y with gen := .pending } else foldInto q y, ?_, ?_⟩
  · simp only [commitQueue, relabel, foldOpen, List.mem_map, List.mem_filter]
    exact ⟨_, ⟨y, ⟨h, by simp [hf]⟩, rfl⟩, rfl⟩
  · unfold committedGen
    rw [h2]
    split <;> simp_all

/-- A write that finds no entry finds none after a commit. -/
theorem findEntry_commitQueue {q : List Entry} {b : BlockNo} {g : Generation} (hg : g = .direct ∨ g = .opn)
    (h : findEntry q b g = none) : findEntry (commitQueue q) b g = none := by
  rw [findEntry_none] at *
  rintro e he ⟨hb, hge⟩
  obtain ⟨y, hy, h1, _, h3⟩ := of_mem_commitQueue he
  have hy' := h y hy
  unfold committedGen at h3
  rcases hg with rfl | rfl
  · split at h3
    · simp_all
    · exact hy' ⟨h1 ▸ hb, h3 ▸ hge⟩
  · split at h3 <;> simp_all

/-- A commit leaves an entry of every block that has one: a folded entry has a PENDING partner. -/
theorem queueHasBlock_commitQueue {q : List Entry} {b : BlockNo} (h : queueHasBlock q b = true) :
    queueHasBlock (commitQueue q) b = true := by
  simp only [queueHasBlock, List.any_eq_true, beq_iff_eq] at *
  obtain ⟨y, hy, hb⟩ := h
  cases hf : folds q y with
  | false =>
    obtain ⟨e, he, h1, _⟩ := mem_commitQueue hy hf
    exact ⟨e, he, h1.trans hb⟩
  | true =>
    simp only [folds, Bool.and_eq_true, Option.isSome_iff_exists] at hf
    obtain ⟨_, p, hp⟩ := hf
    obtain ⟨hp1, hp2, hp3⟩ := findEntry_some hp
    obtain ⟨e, he, h1, _⟩ := mem_commitQueue hp1 (show folds q p = false by simp [folds, hp3])
    exact ⟨e, he, h1.trans (hp2.trans hb)⟩

/-- A queue that claims the port claims it after a commit. -/
theorem queueClaims_commitQueue {m : Mover} {q : List Entry} (h : queueClaims m q = true) : queueClaims m (commitQueue q) = true := by
  simp only [queueClaims, Bool.and_eq_true, List.any_eq_true, Bool.not_eq_true', List.any_eq_false, Entry.isWriting,
    beq_iff_eq] at *
  obtain ⟨⟨y, hy, he⟩, hn⟩ := h
  have hgen : y.gen = .direct ∨ y.gen = .retiring := by
    simp only [eligible, Bool.and_eq_true, Bool.or_eq_true, beq_iff_eq] at he
    exact he.1.1
  refine ⟨?_, ?_⟩
  · obtain ⟨e, he1, h1, h2, h3⟩ := mem_commitQueue hy (show folds q y = false by rcases hgen with h | h <;> simp [folds, h])
    have hge : e.gen = y.gen := by
      rw [h3]
      unfold committedGen
      rcases hgen with h | h <;> simp [h]
    refine ⟨e, he1, ?_⟩
    simpa [eligible, hge, h2, blocked, h1] using he
  · intro e he hw
    obtain ⟨y, hy, _, h2, _⟩ := of_mem_commitQueue he
    exact hn y hy (h2 ▸ hw)

/-- A write that may not go direct may not go direct after a spill (R27). -/
theorem mayGoDirect_spill {s : State} {a : WordAddr} (h : mayGoDirect s a = false) : mayGoDirect (spill s) a = false := by
  cases hs : mayGoDirect (spill s) a with
  | false => rfl
  | true =>
    simp only [mayGoDirect, Bool.and_eq_true, Bool.not_eq_true', portFree, claimWaiting, Bool.or_eq_false_iff] at hs
    obtain ⟨⟨⟨h1, h2⟩, h3⟩, h4, ⟨h5, h7⟩, h8⟩ := hs
    have h3' : queueHasBlock s.queue (blockOf a) = false := by
      cases hh : queueHasBlock s.queue (blockOf a) with
      | false => rfl
      | true => exact absurd (h3.symm.trans (queueHasBlock_commitQueue hh)) (by decide)
    have h7' : queueClaims s.mover s.queue = false := by
      cases hh : queueClaims s.mover s.queue with
      | false => rfl
      | true => exact absurd (h7.symm.trans (queueClaims_commitQueue hh)) (by decide)
    have : mayGoDirect s a = true := by
      simp only [mayGoDirect, Bool.and_eq_true, Bool.not_eq_true', portFree, claimWaiting, Bool.or_eq_false_iff]
      exact ⟨⟨⟨h1, h2⟩, h3'⟩, h4, ⟨h5, h7'⟩, h8⟩
    exact absurd (h.symm.trans this) (by decide)

/-- A treatment that finds the queue full stays one after a spill unless the spill freed an entry (R27). -/
theorem treatment_spill {s : State} {w : HostWrite} (hl : w.lanes.empty = false) (hd : s.ctl.istate.afterDrainCut = false)
    (h : treatment s w = .full) :
    treatment (spill s) w = if (commitQueue s.queue).length < 64 then .post (writeGeneration s w.addr) else .full := by
  have h0 : findEntry s.queue (blockOf w.addr) (writeGeneration s w.addr) = none ∧ mayGoDirect s w.addr = false := by
    unfold treatment at h
    rw [if_neg (by simp [hl]), if_neg (by simp [hd])] at h
    unfold postTreatment at h
    cases hf : findEntry s.queue (blockOf w.addr) (writeGeneration s w.addr) with
    | some e => rw [hf] at h; simp only at h; split at h <;> cases h
    | none =>
      rw [hf] at h
      refine ⟨rfl, ?_⟩
      cases hm : mayGoDirect s w.addr with
      | false => rfl
      | true => simp [hm] at h
  have hds : (spill s).ctl.istate.afterDrainCut = false := hd
  have hgw : writeGeneration (spill s) w.addr = writeGeneration s w.addr := rfl
  have hqs : (spill s).queue = commitQueue s.queue := rfl
  have hf := findEntry_commitQueue (by unfold writeGeneration; split <;> simp) h0.1
  simp only [treatment, hl, hds, postTreatment, hgw, hqs, hf, mayGoDirect_spill h0.2, queueFull_eq]
  by_cases hn : (commitQueue s.queue).length < 64
  · simp [hn, Nat.not_le.2 hn]
  · simp [hn, Nat.not_lt.1 hn]

/-! ### Merging into a place of the queue (R22) -/

/-- A merge into a sound queue changes the entry of the block and generation, and no other. -/
theorem mergeWrite_split {older younger : List Entry} {e : Entry} {w : HostWrite} {g : Generation}
    (h : (older ++ e :: younger).Pairwise inAgeOrder) (hb : e.block = blockOf w.addr) (hg : e.gen = g) :
    mergeWrite (older ++ e :: younger) w g = older ++ { e with bytes := overlay (writeBytes w) e.bytes } :: younger := by
  obtain ⟨_, h2, h3⟩ := List.pairwise_append.1 h
  have none_of : ∀ l : List Entry, (∀ x ∈ l, x.isOf (blockOf w.addr) g = false) → mergeWrite l w g = l := by
    intro l hl
    exact (List.map_congr_left (g := id) fun x hx => by simp [hl x hx]).trans (List.map_id l)
  have ho := none_of older fun x hx => Bool.eq_false_iff.2 fun hc => by
    have hc := isOf_iff.1 hc
    exact not_inAgeOrder (hc.1.trans hb.symm) (hc.2.trans hg.symm) (h3 x hx e List.mem_cons_self)
  have hy := none_of younger fun x hx => Bool.eq_false_iff.2 fun hc => by
    have hc := isOf_iff.1 hc
    exact not_inAgeOrder (hb.trans hc.1.symm) (hg.trans hc.2.symm) ((List.pairwise_cons.1 h2).1 x hx)
  unfold mergeWrite at ho hy ⊢
  rw [List.map_append, List.map_cons, ho, hy, if_pos (isOf_iff.2 ⟨hb, hg⟩)]

/-! ### The entries of a generation (R58) -/

/-- Changing entries but for their generation keeps the number of a generation. -/
theorem countGen_map {f : Entry → Entry} (hf : ∀ e, (f e).gen = e.gen) (q : List Entry) (g : Generation) :
    countGen (q.map f) g = countGen q g := by
  induction q with
  | nil => rfl
  | cons e q ih => simp only [countGen, List.map_cons, List.filter_cons, hf] at *; split <;> simp [ih]

/-- A merge keeps the number of each generation. -/
theorem countGen_mergeWrite (q : List Entry) (w : HostWrite) (g g' : Generation) : countGen (mergeWrite q w g) g' = countGen q g' :=
  countGen_map (fun _ => by split <;> rfl) q g'

/-- A retire grant keeps the number of each generation. -/
theorem countGen_startRetire (m : Mover) (q : List Entry) (g : Generation) : countGen (startRetire m q) g = countGen q g := by
  induction q with
  | nil => rfl
  | cons e q ih =>
    unfold startRetire
    split
    · simp only [countGen, List.filter_cons]; split <;> rfl
    · simp only [countGen, List.filter_cons] at *; split <;> simp [ih]

end Sys2Proof.Machine
end

