-- ==== Sys2Proof/Laws/Port.lean ====
section
/-! SUPPORT. Laws/Port.lean: what the arbiter can do and what it leaves, what the end of a held write's wait can do, that the class of a write depends
on its block only, and the sources of a read with the mover IDLE. -/

namespace Sys2Proof.Machine

/-! ### The arbiter (R63, R64) -/

/-- Everything the arbiter can do: nothing, or in RUNNING and DRAINING at an idle port the grant of a due fetch, of the host's claim, of a
retire tenure or of a mover step. -/
theorem settle_cases (s : State) :
    settle s = s ∨
    (sharing s = true ∧ s.port.tenure = none ∧
      ((∃ line, s.scan.fetchDue = some line ∧ settle s = grantFetch line s) ∨
       (s.scan.fetchDue = none ∧ s.host.access.claims = true ∧ settle s = grantHost s) ∨
       (s.scan.fetchDue = none ∧ queueClaims s.mover s.queue = true ∧ settle s = grantRetire s) ∨
       (s.scan.fetchDue = none ∧ moverClaims s = true ∧ settle s = grantStep s))) := by
  unfold settle
  split
  · exact Or.inl rfl
  · rename_i h
    have hs : sharing s = true ∧ s.port.tenure = none := by
      cases h1 : sharing s <;> cases h2 : s.port.tenure <;> simp_all
    split
    · rename_i line hf
      exact Or.inr ⟨hs.1, hs.2, Or.inl ⟨line, hf, rfl⟩⟩
    · rename_i hf
      unfold grantOther
      split
      · rename_i hc
        have hc' : s.host.access.claims = true := by
          rw [Bool.and_eq_true] at hc; exact hc.1
        exact Or.inr ⟨hs.1, hs.2, Or.inr (Or.inl ⟨hf, hc', rfl⟩)⟩
      · split
        · rename_i hq
          exact Or.inr ⟨hs.1, hs.2, Or.inr (Or.inr (Or.inl ⟨hf, hq, rfl⟩))⟩
        · split
          · rename_i hm
            exact Or.inr ⟨hs.1, hs.2, Or.inr (Or.inr (Or.inr ⟨hf, hm, rfl⟩))⟩
          · exact Or.inl rfl

/-- In pass-through there is no grant (R7). -/
theorem settle_of_not_sharing {s : State} (h : sharing s = false) : settle s = s := by
  unfold settle; rw [if_pos (by simp [h])]

/-- A state in pass-through does not share the memory (R7). -/
theorem sharing_of_passThrough {s : State} (h : s.ctl.istate.passThrough = true) : sharing s = false := by
  unfold sharing
  cases hi : s.ctl.istate <;> simp_all [IState.passThrough, IState.isDraining]

/-- While a tenure is in progress there is no grant (R60). -/
theorem settle_of_tenure {s : State} (h : s.port.tenure.isSome = true) : settle s = s := by
  unfold settle; rw [if_pos (by simp [h])]

/-- A due fetch is granted first (R64). -/
theorem settle_fetch {s : State} {line : BitVec 8} (hs : sharing s = true) (ht : s.port.tenure = none)
    (hf : s.scan.fetchDue = some line) : settle s = grantFetch line s := by
  unfold settle; rw [if_neg (by simp [hs, ht]), hf]

/-- With no fetch due the others are granted in their order (R64). -/
theorem settle_other {s : State} (hs : sharing s = true) (ht : s.port.tenure = none) (hf : s.scan.fetchDue = none) :
    settle s = grantOther s := by
  unfold settle; rw [if_neg (by simp [hs, ht]), hf]

/-- The grant of the host's claim makes a host tenure that serves the access, and changes nothing but port and access (R65). -/
theorem grantHost_spec {s : State} (h : s.host.access.claims = true) :
    ∃ t, t.isHost = true ∧
      grantHost s = (s.withPort ⟨some t, .queueNext⟩).withHost { s.host with access := .inTenure } := by
  unfold grantHost
  cases ha : s.host.access <;> simp_all [HostAccess.claims]
  · exact ⟨_, rfl, rfl⟩
  · exact ⟨_, rfl, rfl⟩

/-- Without a claim of the host there is nothing to grant. -/
theorem grantHost_of_no_claim {s : State} (h : s.host.access.claims = false) : grantHost s = s := by
  unfold grantHost
  cases ha : s.host.access <;> simp_all [HostAccess.claims]

/-! ### The end of a held write's wait (R15, R23, R24) -/

/-- The end of a wait changes nothing but the mark of the held write. -/
theorem noteWait_spec (left retired : Bool) (s : State) :
    ∃ a, noteWait left retired s = s.withHost { s.host with access := a } ∧ a.busy = s.host.access.busy ∧
      a.claims = s.host.access.claims ∧ a.served = s.host.access.served := by
  unfold noteWait
  cases ha : s.host.access with
  | writeWait w why due => exact ⟨_, rfl, rfl, rfl, rfl⟩
  | none | readHold _ | interventionHold _ | writeHold _ | readClaim _ _ | writeClaim _ | inTenure | handedOver =>
    exact ⟨s.host.access, rfl, by rw [ha], by rw [ha], by rw [ha]⟩

/-! ### The words of a mover step (R109, R110) -/

/-- The address of word `i` of a mover step (R109, R110). -/
theorem stepAddrs_toNat {d : MoverDir} {m : Mover} {first : WordAddr} {k i : Nat} (hd : m.dir = d) (hi : i < k)
    (hk : k ≤ m.remaining) (hf : first.toNat + m.length.toNat ≤ 0x100000) :
    ((stepAddrs m first k)[i]?.getD 0).toNat =
      if d = .up then first.toNat + m.done.toNat + i else first.toNat + m.length.toNat - 1 - m.done.toNat - i := by
  unfold Mover.remaining at hk
  unfold stepAddrs
  rw [List.getElem?_map, List.getElem?_range hi, hd]
  cases d <;> simp <;> omega

/-! ### The class of a write (R4, R5, R10) -/

/-- The words of one block lie on one page and on one side of the control page (R5). -/
theorem classify_block {s : State} {a b : WordAddr} (h : blockOf a = blockOf b) : classify s a = classify s b := by
  have hb : a.toNat / 8 = b.toNat / 8 := by
    have := congrArg BitVec.toNat h
    simp only [blockOf, BitVec.extractLsb'_toNat, Nat.shiftRight_eq_div_pow] at this
    have ha := a.isLt
    have hb := b.isLt
    omega
  have hp : pageOf a = pageOf b := by
    unfold pageOf laneAddr; omega
  have hc : (controlOffset s.pins.cps a).isSome = (controlOffset s.pins.cps b).isSome := by
    unfold controlOffset
    have : (controlBase s.pins.cps ≤ laneAddr a ∧ laneAddr a < controlBase s.pins.cps + Config.controlBytes) ↔
        (controlBase s.pins.cps ≤ laneAddr b ∧ laneAddr b < controlBase s.pins.cps + Config.controlBytes) := by
      unfold controlBase laneAddr Config.controlBase0 Config.controlBytes; omega
    split <;> split <;> simp_all
  unfold classify
  rw [hp, hc]

/-- The generation of a write depends on its block only (R10, R20). -/
theorem writeGeneration_block {s : State} {a b : WordAddr} (h : blockOf a = blockOf b) :
    writeGeneration s a = writeGeneration s b := by
  unfold writeGeneration; rw [classify_block h]

/-- Word 0 of a block lies in it. -/
theorem blockOf_blockWord (b : BlockNo) {j : Nat} (h : j < 8) : blockOf (blockWord b j) = b := by
  apply BitVec.eq_of_toNat_eq
  have hb := b.isLt
  simp only [blockOf, blockWord, BitVec.extractLsb'_toNat, BitVec.toNat_ofNat, Nat.shiftRight_eq_div_pow]
  omega

/-- A write receives the generation of its block. -/
theorem writeGeneration_eq_block (s : State) (a : WordAddr) : writeGeneration s a = blockGeneration s (blockOf a) :=
  writeGeneration_block (blockOf_blockWord (blockOf a) (by omega)).symm

/-! ### What a grant leaves (R63 to R66) -/

/-- A grant keeps the number of entries of each generation. -/
theorem countGen_settle (s : State) (g : Generation) : countGen (settle s).queue g = countGen s.queue g := by
  rcases settle_cases s with h | ⟨_, _, ⟨line, _, h⟩ | ⟨_, _, h⟩ | ⟨_, _, h⟩ | ⟨_, _, h⟩⟩ <;> rw [h]
  · simp only [grantFetch, State.withScan_queue, State.withPort_queue]
  · unfold grantHost; split <;> rfl
  · exact countGen_startRetire _ _ g
  · rfl

/-- A grant changes nothing of the scan but the due fetch and the two buffers. -/
theorem settle_scan_rest (s : State) :
    { (settle s).scan with fetchDue := s.scan.fetchDue, bufA := s.scan.bufA, bufB := s.scan.bufB } = s.scan := by
  rcases settle_cases s with h | ⟨_, _, ⟨line, _, h⟩ | ⟨_, _, h⟩ | ⟨_, _, h⟩ | ⟨_, _, h⟩⟩ <;> rw [h]
  · simp only [grantFetch, setBuffer]; split <;> rfl
  · unfold grantHost; split <;> rfl
  · rfl
  · rfl

/-! ### With the mover IDLE (R45, R108) -/

/-- No word is in the destination of a mover that is IDLE. -/
theorem inDest_of_idle {m : Mover} (h : m.active = false) (kind : MoverKind) (a : WordAddr) : inDest m kind a = false := by
  simp [inDest, destRange, h, WordRange.empty, WordRange.has]

/-- With the mover IDLE a host read tenure reads the read's own word. -/
theorem chosenWord_of_idle {s : State} (h : s.mover.active = false) (a : WordAddr) : chosenWord s a = a := by
  simp [chosenWord, inDest_of_idle h]

/-- With the queue empty and the mover IDLE every lane comes from the memory. -/
theorem laneSource_of_idle {s : State} (hq : s.queue = []) (h : s.mover.active = false) (a : WordAddr) (odd : Bool) :
    laneSource s a odd = .memory := by
  simp [laneSource, queueByte, hq, inDest_of_idle h]

end Sys2Proof.Machine
end

