-- ==== Sys2Proof/Laws/Scan.lean ====
section
/-! SUPPORT. Laws/Scan.lean: the two line buffers as the scan replaces them, and the fetched words of a line. -/

namespace Sys2Proof.Machine

/-! ### The line buffers (R90) -/

/-- A buffer that was replaced reads as its replacement. -/
@[simp] theorem bufferOf_setBuffer (x : Scan) (line : BitVec 8) (b : LineBuffer) : bufferOf (setBuffer x line b) line = b := by
  cases h : line.getLsbD 0 <;> simp only [bufferOf, setBuffer, h] <;> rfl

/-- Line n + 1 is of the other parity. -/
theorem parity_next (line : BitVec 8) : (line + 1).getLsbD 0 = !line.getLsbD 0 := by
  revert line; decide +revert

/-- The buffer of line n + 1 is the one that line n does not use. -/
theorem bufferOf_next (x : Scan) (line : BitVec 8) : bufferOf x (line + 1) = otherBuffer x line := by
  simp only [bufferOf, otherBuffer, parity_next]
  cases line.getLsbD 0 <;> rfl

/-- The buffer of line n is the one that line n + 1 does not use. -/
theorem otherBuffer_next (x : Scan) (line : BitVec 8) : otherBuffer x (line + 1) = bufferOf x line := by
  simp only [bufferOf, otherBuffer, parity_next]
  cases line.getLsbD 0 <;> rfl

/-- Replacing one buffer keeps the other. -/
@[simp] theorem otherBuffer_setBuffer (x : Scan) (line : BitVec 8) (b : LineBuffer) :
    otherBuffer (setBuffer x line b) line = otherBuffer x line := by
  cases h : line.getLsbD 0 <;> simp only [otherBuffer, setBuffer, h] <;> rfl

/-- The buffers do not depend on the walk pointer. -/
@[simp] theorem bufferOf_withWalk (x : Scan) (line : BitVec 8) (p : ByteAddr) : bufferOf { x with walk := p } line = bufferOf x line := rfl

/-- Replacing a buffer changes the buffers only. -/
theorem setBuffer_others (x : Scan) (line : BitVec 8) (b : LineBuffer) :
    { setBuffer x line b with bufA := x.bufA, bufB := x.bufB } = x := by
  unfold setBuffer; split <;> rfl

/-- After the switch to line n its buffer is the one R94 gives. -/
@[simp] theorem bufferOf_switchTo (x : Scan) (lines : Nat) (n : BitVec 8) : bufferOf (x.switchTo lines n) n = switchedBuffer x n := by
  cases h : n.getLsbD 0 <;> simp only [bufferOf, Scan.switchTo, h] <;> rfl

/-- After the switch to line n the other buffer has left the panel. -/
@[simp] theorem otherBuffer_switchTo (x : Scan) (lines : Nat) (n : BitVec 8) :
    otherBuffer (x.switchTo lines n) n = (otherBuffer x n).leftPanel := by
  cases h : n.getLsbD 0 <;> simp only [otherBuffer, Scan.switchTo, h] <;> rfl

/-! ### The buffer switched onto the panel (R94) -/

/-- The switch keeps line, MARK and Aborted of the buffer, which becomes SHOWING. -/
theorem switchedBuffer_frame (x : Scan) (n : BitVec 8) :
    (switchedBuffer x n).line = (bufferOf x n).line ∧ (switchedBuffer x n).mark = (bufferOf x n).mark ∧
      (switchedBuffer x n).aborted = (bufferOf x n).aborted ∧ (switchedBuffer x n).state = .showing := by
  simp only [switchedBuffer]
  split
  · split <;> exact ⟨rfl, rfl, rfl, rfl⟩
  · exact ⟨rfl, rfl, rfl, rfl⟩
  · exact ⟨rfl, rfl, rfl, rfl⟩

/-- A DATA or DARK buffer keeps its content. -/
theorem switchedBuffer_plain {x : Scan} {n : BitVec 8} (h : (bufferOf x n).kind ≠ .repeated) :
    switchedBuffer x n = { bufferOf x n with state := .showing } := by
  simp only [switchedBuffer]
  split
  · rename_i hk; exact absurd hk h
  · rfl
  · rfl

/-- A REPEAT buffer takes the data just shown. -/
theorem switchedBuffer_repeat {x : Scan} {n : BitVec 8} (h : (bufferOf x n).kind = .repeated) (hn : n ≠ 0)
    (hs : (otherBuffer x n).state = .showing) (hd : (otherBuffer x n).kind = .data) :
    switchedBuffer x n = { bufferOf x n with kind := .data, words := (otherBuffer x n).words, state := .showing } := by
  simp only [switchedBuffer, h]
  exact if_pos ⟨hn, hs, hd⟩

/-- A REPEAT buffer with nothing to repeat is DARK. -/
theorem switchedBuffer_repeat_dark {x : Scan} {n : BitVec 8} (h : (bufferOf x n).kind = .repeated)
    (hd : ¬(n ≠ 0 ∧ (otherBuffer x n).state = .showing ∧ (otherBuffer x n).kind = .data)) :
    switchedBuffer x n = { bufferOf x n with kind := .dark, words := [], state := .showing } := by
  simp only [switchedBuffer, h]
  exact if_neg hd

/-- The switch depends on the two buffers only. -/
theorem switchedBuffer_congr {x y : Scan} {n : BitVec 8} (ha : y.bufA = x.bufA) (hb : y.bufB = x.bufB) :
    switchedBuffer y n = switchedBuffer x n := by
  have h1 : bufferOf y n = bufferOf x n := by unfold bufferOf; rw [ha, hb]
  have h2 : otherBuffer y n = otherBuffer x n := by unfold otherBuffer; rw [ha, hb]
  unfold switchedBuffer
  rw [h1, h2]

/-! ### The fetched words (R88, R91) -/

/-- The words of a fetch: LINE_WORDS words for a data line, none otherwise. -/
theorem fetchedWords_eq (s : State) :
    fetchedWords s =
      if (entryWord1 s).getLsbD 15 || (entryWord1 s).getLsbD 14 then []
      else (List.range s.lineWords).map fun i => Memory.readWord s.mem (entryStart (entryWord0 s) (entryWord1 s) + BitVec.ofNat 20 i) := by
  unfold fetchedWords entryKind
  cases (entryWord1 s).getLsbD 15 <;> cases (entryWord1 s).getLsbD 14 <;> simp [lineAddrs]

/-! ### Boundaries (R76, R82, R83, R84, R86, R87) -/

/-- A boundary with the scan on and no line fetch due or in progress. -/
theorem exec_linePeriodBoundary {s : State} (wake : Bool) (h : s.scan.state ≠ .off) (hf : fetchOutstanding s = false) :
    exec (.linePeriodBoundary wake) s = .next (settle (boundary wake (s.withScan { s.scan with timer := 0 }))) := by
  simp [exec, execLinePeriodBoundary, linePeriodBoundary, h, hf]

theorem boundary_showing {s : State} (wake : Bool) (h : s.scan.state = .showing) : boundary wake s = endLinePeriod s := by
  unfold boundary; rw [h]

theorem boundary_gap {s : State} (wake : Bool) (h : s.scan.state = .gap) : boundary wake s = gapBoundary wake s := by
  unfold boundary; rw [h]

theorem gapBoundary_count {s : State} (wake : Bool) (h : s.scan.sub = .count) : gapBoundary wake s = countGap s := by
  unfold gapBoundary; rw [h]

theorem gapBoundary_extend {s : State} (wake : Bool) (h : s.scan.sub = .extend) (hd : s.ctl.istate.afterDrainCut = false) :
    gapBoundary wake s = checkGap s := by
  unfold gapBoundary; rw [h]; simp [hd]

theorem gapBoundary_drain {s : State} (wake : Bool) (h : s.scan.sub = .extend) (hd : s.ctl.istate.afterDrainCut = true) :
    gapBoundary wake s = drainCheck wake s := by
  unfold gapBoundary; rw [h]; simp [hd]

theorem gapBoundary_leadIn {s : State} (wake : Bool) (h : s.scan.sub = .leadIn) : gapBoundary wake s = lineSwitch 0 s := by
  unfold gapBoundary; rw [h]

/-- A period in COUNT that is not the last (R82). -/
theorem countGap_below {s : State} (h : s.scan.gapCount.toNat + 1 < s.gapLines) :
    countGap s = s.withScan { s.scan with gapCount := s.scan.gapCount + 1 } := by
  unfold countGap; rw [if_neg (by omega)]

/-- The last period in COUNT (R82). -/
theorem countGap_last {s : State} (h : s.gapLines ≤ s.scan.gapCount.toNat + 1) :
    countGap s = checkGap (s.withScan { s.scan with gapCount := 0 }) := by
  unfold countGap; rw [if_pos h]

/-- A checked boundary that finds a RETIRING entry (R83). -/
theorem checkGap_retiring {s : State} (h : hasGen s.queue .retiring = true) : checkGap s = extendGap false s := by
  unfold checkGap; rw [if_pos (by simp [retired, h])]

/-- A checked boundary that begins LEAD_IN (R83, R86). -/
theorem checkGap_synced {s : State} (h : hasGen s.queue .retiring = false) (hs : synced s = true) : checkGap s = beginLeadIn s := by
  unfold checkGap; rw [if_neg (by simp [retired, h]), if_pos hs]

/-- A checked boundary of a FOLLOWER that goes on waiting (R84). -/
theorem checkGap_waiting {s : State} (h : hasGen s.queue .retiring = false) (hs : synced s = false)
    (hl : s.scan.gapCount.toNat < s.syncLimit) : checkGap s = extendGap true s := by
  unfold checkGap; rw [if_neg (by simp [retired, h]), if_neg (by simp [hs]), if_neg (by omega)]

/-- A checked boundary at which a FOLLOWER's wait ends without sync (R84). -/
theorem checkGap_lost {s : State} (h : hasGen s.queue .retiring = false) (hs : synced s = false)
    (hl : s.syncLimit ≤ s.scan.gapCount.toNat) : checkGap s = raise .syncLost (beginLeadIn s) := by
  unfold checkGap; rw [if_neg (by simp [retired, h]), if_neg (by simp [hs]), if_pos hl]

/-! ### The queue at a cut (R34, R35) -/

/-- The shift in a state that does not drain. -/
theorem cutQueue_running {s : State} (h : s.ctl.istate.isDraining = false) :
    cutQueue s = s.withQueue (cutShift s.ctl.mode.sharing s.queue) := by
  unfold cutQueue
  cases hi : s.ctl.istate <;> simp_all [IState.isDraining]

/-- The drain shift. -/
theorem cutQueue_draining {s : State} {target : DrainTarget} {after : Bool} (h : s.ctl.istate = .draining target after) :
    cutQueue s = noteWait (s.queue.any (folds s.queue)) false
      (setIState (.draining target true) (s.withQueue (drainShift s.queue))) := by
  unfold cutQueue; rw [h]

end Sys2Proof.Machine
end

