-- ==== Sys2Proof/Laws/Views.lean ====
section
/-! SUPPORT. Laws/Views.lean: what the views see: the status words one by one, the unfinished ranges, HWAIT under the operations that end a meaning, and
the memory-side pins. -/

namespace Sys2Proof.Machine

/-! ### The status words (10.6) -/

theorem statusWord_0 (s : State) : statusWord s 0 = s.ctl.istate.code := rfl
theorem statusWord_1 (s : State) : statusWord s 1 = s.ctl.mode.word := rfl
theorem statusWord_2 (s : State) : statusWord s 2 = s.scan.frames := rfl
theorem statusWord_3 (s : State) : statusWord s 3 = (if s.scan.state = .showing then s.scan.line.setWidth 16 else 0xFFFF) := rfl
theorem statusWord_4 (s : State) : statusWord s 4 = s.scan.ext := rfl
theorem statusWord_5 (s : State) : statusWord s 5 = BitVec.ofNat 16 s.queue.length := rfl
theorem statusWord_6 (s : State) : statusWord s 6 = BitVec.ofNat 16 (countGen s.queue .direct) := rfl
theorem statusWord_7 (s : State) : statusWord s 7 = BitVec.ofNat 16 (countGen s.queue .opn) := rfl
theorem statusWord_8 (s : State) : statusWord s 8 = BitVec.ofNat 16 (countGen s.queue .pending) := rfl
theorem statusWord_9 (s : State) : statusWord s 9 = BitVec.ofNat 16 (countGen s.queue .retiring) := rfl
theorem statusWord_10 (s : State) : statusWord s 10 = s.ctl.events.setWidth 16 := rfl
theorem statusWord_11 (s : State) : statusWord s 11 = s.ctl.setup.get 16 := rfl
theorem statusWord_12 (s : State) : statusWord s 12 = s.ctl.lastCode := rfl
theorem statusWord_13 (s : State) : statusWord s 13 = s.ctl.lastResult.code := rfl
theorem statusWord_14 (s : State) : statusWord s 14 = s.ctl.count := rfl
theorem statusWord_15 (s : State) : statusWord s 15 = BitVec.ofNat 16 s.ctl.ptr.val := rfl
theorem statusWord_16 (s : State) :
    statusWord s 16 = match s.ctl.setupFault with
      | none => 0xFFFF
      | some i => BitVec.ofNat 16 i.val := rfl
theorem statusWord_17 (s : State) : statusWord s 17 = s.mover.word := rfl
theorem statusWord_18 (s : State) : statusWord s 18 = s.mover.done := rfl
theorem statusWord_19 (s : State) : statusWord s 19 = s.mover.length := rfl
theorem statusWord_20 (s : State) : statusWord s 20 = s.clock.source.code ||| s.clock.cond.code := rfl
theorem statusWord_21 (s : State) :
    statusWord s 21 = match s.clock.switch with
      | none => 0xFFFF
      | some p => p.target.code ||| p.phase.code := rfl
theorem statusWord_22 (s : State) : statusWord s 22 = s.clock.mult.factor.setWidth 16 := rfl
theorem statusWord_23 (s : State) : statusWord s 23 = s.clock.mult.state.code := rfl
theorem statusWord_24 (s : State) : statusWord s 24 = s.scan.base.extractLsb' 0 16 := rfl
theorem statusWord_25 (s : State) : statusWord s 25 = (s.scan.base.extractLsb' 16 5).setWidth 16 := rfl
theorem statusWord_26 (s : State) : statusWord s 26 = s.pins.cps.setWidth 16 ||| ((s.pins.cks.setWidth 16) <<< 4) := rfl

/-! ### The unfinished ranges (R108) -/

/-- A word lies in a range exactly when it is between its ends. -/
theorem WordRange.has_iff (r : WordRange) (x : Nat) : r.has x = true ↔ r.lo ≤ x ∧ x < r.hi := by
  unfold WordRange.has
  rw [Bool.and_eq_true, decide_eq_true_iff, decide_eq_true_iff]

/-- A block meets a range exactly when one of its eight words lies in it (R6, R36). -/
theorem WordRange.meets_iff (r : WordRange) (a : WordAddr) :
    r.meets (blockOf a) = true ↔ ∃ x, x / 8 = a.toNat / 8 ∧ r.has x = true := by
  have hb : (blockOf a).toNat = a.toNat / 8 := by
    have := a.isLt
    simp only [blockOf, BitVec.extractLsb'_toNat, Nat.shiftRight_eq_div_pow]
    omega
  simp only [WordRange.has_iff]
  unfold WordRange.meets
  rw [hb, Bool.and_eq_true, Bool.and_eq_true, decide_eq_true_iff, decide_eq_true_iff, decide_eq_true_iff]
  constructor
  · rintro ⟨⟨h1, h2⟩, h3⟩
    exact ⟨max r.lo (a.toNat / 8 * 8), by omega, by omega, by omega⟩
  · rintro ⟨x, h1, h2, h3⟩
    omega

/-! ### HWAIT (R1, R2, R50, R73) -/

/-- A change that keeps the host side keeps HWAIT. -/
theorem hwait_congr {s t : State} (h : t.host = s.host) : hwait t = hwait s := by unfold hwait; rw [h]

/-- The end of a wait keeps HWAIT: the write is decided afresh later (R24). -/
theorem hwait_noteWait (left retired : Bool) (s : State) : hwait (noteWait left retired s) = hwait s := by
  unfold noteWait hwait
  cases ha : s.host.access <;> simp [ha, HostAccess.waits]

/-- A grant keeps HWAIT: it is released at the tenure's end (R50). -/
theorem hwait_settle (s : State) : hwait (settle s) = hwait s := by
  rcases settle_cases s with h | ⟨_, _, ⟨_, _, h⟩ | ⟨_, hc, h⟩ | ⟨_, _, h⟩ | ⟨_, _, h⟩⟩ <;> rw [h]
  · rfl
  · obtain ⟨t, _, hg⟩ := grantHost_spec hc
    rw [hg]
    unfold hwait
    cases ha : s.host.access <;> simp_all [HostAccess.claims, HostAccess.waits]
  · rfl
  · rfl

/-- The decoding of a taken write keeps HWAIT (R151). -/
theorem hwait_controlTaken (w : HostWrite) (s : State) : hwait (controlTaken w s) = hwait s := by
  have hcommit : hwait (commitOpen s) = hwait s := hwait_noteWait _ _ _
  have hends : hwait (moverEnds .moveAbort s) = hwait s := hwait_noteWait _ _ _
  have hrun : ∀ c, hwait (runCommand c s) = hwait s := by
    intro c
    cases c
    case commit =>
      unfold runCommand commit
      dsimp only
      repeat' split
      · exact hwait_congr (by simp)
      · exact hwait_congr (by simp)
      · exact (hwait_congr (by simp)).trans hcommit
    case movestop =>
      unfold runCommand movestop
      dsimp only
      repeat' split
      · exact hwait_congr (by simp)
      · exact hwait_congr (by simp)
      · exact hwait_congr (by simp)
      · exact (hwait_congr (by simp)).trans hends
    all_goals exact hwait_congr (by simp [runCommand])
  unfold controlTaken
  split
  · rename_i c _
    unfold decoded
    split
    · rfl
    · cases c <;> simp only [wordWritten]
      · unfold commandWritten
        repeat' split
        · exact hrun _
        · exact hwait_congr (by simp)
        · exact hwait_congr (by simp)
      · exact hwait_congr (by simp)
      · exact hwait_congr (by simp)
  · rfl

/-! ### The memory-side pins (R7, R60, R74) -/

/-- The pins in a tenure are those of its port cycles. -/
theorem memPins_tenure {s : State} {t : Tenure} (h : HostPins) (n : Nat) (hs : sharing s = true) (ht : s.port.tenure = some t) :
    memPins s h n = (tenurePins s t)[n]? := by simp [memPins, hs, portPins, ht]

/-- An idle port drives no strobe and no data (R60). -/
theorem memPins_idle {s : State} (h : HostPins) (n : Nat) (hs : sharing s = true) (ht : s.port.tenure = none) :
    memPins s h n = some idlePins := by simp [memPins, hs, portPins, ht]

/-- In pass-through the pins follow the host's (R7). -/
theorem memPins_passThrough {s : State} (h : HostPins) (n : Nat) (hs : sharing s = false) :
    memPins s h n = some (passPins s h) := by simp [memPins, hs]

/-- A tenure has as many port cycles as memory accesses (R62). -/
theorem tenurePins_length (s : State) (t : Tenure) : (tenurePins s t).length = (tenureOps s t).length := by
  cases t <;> simp [tenurePins, tenureOps]

/-- A read is intercepted where it reads the setup port or a status word, or the part holds an intervention (R1, R55). -/
theorem interceptsRead_iff (s : State) (h : HostPins) :
    interceptsRead s h = true ↔ h.hcs = true ∧ h.hrd = true ∧
      ((controlWord s.pins.cps h.ha).any intervened = true ∨ ∃ c, s.host.access = .interventionHold c) := by
  have hi : s.host.access.isIntervention = true ↔ ∃ c, s.host.access = .interventionHold c := by
    cases s.host.access <;> simp [HostAccess.isIntervention]
  simp only [interceptsRead, Bool.and_eq_true, Bool.or_eq_true, hi, and_assoc]

end Sys2Proof.Machine
end

