-- ==== Sys2Proof/Tests/Slice0.lean ====
section
/-! SUPPORT. Tests/Slice0.lean: the operand checks on ill-formed commands, single steps on small states (most of them from the manual's
Section 11), and for each obligation with hypotheses a state that meets them. -/

namespace Sys2Proof.Tests
set_option Elab.async false
open Sys2Proof Sys2Proof.Machine

/-! ### States -/

/-- The next state, where the command gives one. -/
def run (c : Instr) (s : State) : State :=
  match exec c s with
  | .next t => t
  | .fault _ | .refused _ => s

/-- A setup record: 3 lines of 2 words, 32 clocks a line, 1 gap line, SYNC_LIMIT 2, window 0 on page 1. -/
def smallSetup (mode : Word) : Vector Word 17 := #v[mode, 3, 2, 32, 1, 2, 0, 0, 0x8001, 0x0001, 0, 0, 0, 0, 0, 0, 0]

/-- The part in an interposer state and a mode, in a gap. -/
def part (i : IState) (m : Mode) : State :=
  (State.reset.withCtl { State.reset.ctl with istate := i, mode := m, setup := smallSetup 1 }).withScan
    { State.reset.scan with state := if i.passThrough then .off else .gap, sub := if i.afterDrainCut then .extend else .count }

/-- RUNNING, with the sharing mode given. -/
def running (m : Sharing) : State := part .running ⟨m, false, .none⟩

/-- DRAINING toward PASSIVE, after the drain cut. -/
def drained : State := part (.draining .passive true) ⟨.frame, false, .none⟩

/-- A HELD entry with a byte at position 0. -/
def entry (b : BlockNo) (g : Generation) : Entry := ⟨b, some 7 :: List.replicate 15 none, g, .held⟩

/-- The entry while its retire tenure is in progress. -/
def writing (b : BlockNo) (g : Generation) : Entry := { entry b g with state := .writing }

/-- `n` PENDING entries of different blocks from block 100 on. -/
def manyEntries (n : Nat) (g : Generation) : List Entry := (List.range n).map fun i => entry (BitVec.ofNat 17 (100 + i)) g

/-- The state with arguments latched. -/
def withArgs (a0 a1 a2 a3 a4 : Word) (s : State) : State := s.withCtl { s.ctl with args := #v[a0, a1, a2, a3, a4, 0] }

/-- The state with a tenure in progress. -/
def withTenure (t : Tenure) (s : State) : State := s.withPort { s.port with tenure := some t }

/-- The state with an access held. -/
def withAccess (a : HostAccess) (s : State) : State := s.withHost { s.host with access := a }

/-- The state in SHOW on a line. -/
def showing (n : BitVec 8) (s : State) : State :=
  s.withScan { s.scan with
    state := .showing, line := n
    bufA := ⟨n, .data, [5, 6], if n.getLsbD 0 then .ready else .showing, true, false⟩
    bufB := ⟨n, .data, [7, 8], if n.getLsbD 0 then .showing else .ready, false, true⟩ }

def full : Lanes := ⟨true, true⟩

/-! ### The operand checks refuse ill-formed commands -/

theorem test_unknownCommand_names_no_code :
    (Instr.unknownCommand 0x5301).wellFormed = false ∧ (Instr.unknownCommand 0x5300).wellFormed = true := by decide
theorem test_malformedCommand_is_no_full_word :
    (Instr.malformedCommand 0x5301 full).wellFormed = false ∧ (Instr.malformedCommand 0x5301 ⟨true, false⟩).wellFormed = true := by decide
theorem test_panel_position_below_4095 :
    (Instr.panelPortLineSequence 4095 true).wellFormed = false ∧ (Instr.panelPortLineSequence 4094 true).wellFormed = true := by decide
theorem test_read_cycle_below_514 :
    (Instr.hostRead 0 full 514).wellFormed = false ∧ (Instr.hostRead 0 full 513).wellFormed = true := by decide
theorem test_reset_cycle_below_514 :
    (Instr.resetAsserted 514 true).wellFormed = false ∧ (Instr.resetAsserted 513 true).wellFormed = true := by decide

/-! ### Single steps -/

/-- 11.1 step 1: a DISPLAY write makes an OPEN entry, the next one merges. -/
theorem test_hostWrite_posts :
    ((run (.hostWrite 0x80 0x1234 full) (running .commit)).queue.map fun e => (e.gen, e.byteAt 0, e.byteAt 1)) =
      [(.opn, some 0x34, some 0x12)] := by decide +kernel
theorem test_hostWrite_merges :
    ((run (.hostWrite 0x81 0x5678 ⟨false, true⟩) ((running .commit).withQueue [entry 16 .opn])).queue.map fun e =>
      (e.byteAt 0, e.byteAt 2, e.byteAt 3)) = [(some 7, none, some 0x56)] := by decide +kernel
/-- R11: a PLAIN write at a free port takes a direct tenure. -/
theorem test_hostWrite_direct :
    (run (.hostWrite 0 0x1234 full) (running .direct)).port = ⟨some (.hostWrite ⟨0, 0x1234, full⟩), .queueNext⟩ := by decide +kernel
/-- 11.1: the read of a queued byte takes the newest write. -/
theorem test_hostRead_forwards :
    (run (.hostRead 0x80 ⟨true, false⟩ 0) ((running .commit).withQueue [entry 16 .pending])).host =
      ⟨.readHold 0x80, false, 7⟩ := by decide +kernel
/-- 3.5, read c: a lane that is not enabled takes the byte that the fill pattern supplies. -/
theorem test_hostRead_drives_supplied_lanes :
    (run (.hostRead 0x200 ⟨true, false⟩ 0) ((running .frame).withMover ⟨true, .fill, .up, 0, 0x200, 8, 0, 0x7777, false⟩)).host =
      ⟨.readHold 0x200, false, 0x7777⟩ := by decide +kernel
theorem test_hostRead_status :
    (run (.hostRead 0xFC084 full 0) (part .passive ⟨.direct, false, .none⟩)).host.data = 0 ∧
      (run (.hostRead 0xFC083 full 0) (part .passive ⟨.direct, false, .none⟩)).host.data = 0xFFFF := by decide +kernel
theorem test_heldWrite_posts :
    (run .heldWriteDecidedAfresh (withAccess (.writeWait ⟨0x80, 1, full⟩ .entryLeaves true) (running .frame))).queue.length = 1 := by
  decide +kernel
theorem test_hostReadTenureEnd :
    (run (.hostReadTenureEnd false)
      (withAccess .inTenure (withTenure (.hostRead 0 0 none (some 9)) ((running .direct).withMem [(0, 3), (1, 4)])))).host =
      ⟨.none, false, 0x0903⟩ := by decide +kernel
theorem test_hostDirectWriteTenureEnd :
    (run (.hostDirectWriteTenureEnd false)
      (withAccess .inTenure (withTenure (.hostWrite ⟨0, 0x1200, full⟩) (running .direct)))).mem = [(1, 0x12)] := by decide +kernel
/-- 11.1 step 6: VISIBLE at the end of the last RETIRING entry. -/
theorem test_retireTenureEnd_visible :
    (run .retireTenureEnd (withTenure .retire ((running .frame).withQueue [writing 16 .retiring]))).mem = [(256, 7)] ∧
      (run .retireTenureEnd (withTenure .retire ((running .frame).withQueue [writing 16 .retiring]))).ctl.events = 0x1000 := by
  decide +kernel
theorem test_lineFetchEnd :
    ((run .lineFetchEnd (withTenure (.lineFetch 0 none) ((running .frame).withMem [(0, 1), (3, 0x20), (4, 9)]))).scan.bufA.words,
      (run .lineFetchEnd (withTenure (.lineFetch 0 none) ((running .frame).withMem [(0, 1), (3, 0x20), (4, 9)]))).scan.bufA.mark) =
      ([0x2000, 9], true) := by decide +kernel
theorem test_moverStepEnd_copy_down :
    (run .moverStepEnd (withTenure (.copyStep 2)
      (((running .direct).withMover ⟨true, .copy, .down, 0, 1, 2, 0, 0, false⟩).withMem [(0, 1), (2, 2)]))).mem =
      [(0, 1), (2, 1), (4, 2)] := by decide +kernel
/-- 11.1 step 5: the cut makes PENDING entries RETIRING; OPEN entries stay. -/
theorem test_cut_shifts :
    ((run (.linePeriodBoundary false)
      ((showing 2 (running .commit)).withQueue [entry 16 .pending, entry 16 .opn])).queue.map Entry.gen) = [.retiring, .opn] := by
  decide +kernel
/-- 11.5: the FOLLOWER's wait counts, and ends at SYNC_LIMIT with SYNCLOST. -/
theorem test_follower_waits :
    (run (.linePeriodBoundary false) (part .running ⟨.direct, false, .follower⟩)).scan.ext = 1 := by decide +kernel
theorem test_frameSyncArrival :
    (run .frameSyncArrival (part .running ⟨.direct, false, .follower⟩)).scan.syncSeen = true := by decide +kernel
theorem test_firstCut :
    (run (.firstCut .none) (part .starting ⟨.frame, false, .none⟩)).ctl.istate = .running ∧
      (run (.firstCut .none) (part .starting ⟨.frame, false, .none⟩)).ctl.events = 0x0401 := by decide +kernel
theorem test_engage_defaults : statusWord (run .engage State.reset) 0 = 1 ∧ statusWord (run .engage State.reset) 13 = 2 := by
  decide +kernel
theorem test_disengage_drains : statusWord (run .disengage (running .frame)) 0 = 0x0203 := by decide +kernel
/-- 11.6 step 1. -/
theorem test_quiesce_drains : statusWord (run .quiesce (running .frame)) 0 = 0x0103 := by decide +kernel
theorem test_resume_in_running : statusWord (run .resume (running .frame)) 13 = 4 := by decide +kernel
/-- 11.6 step 6: a LINE_PERIOD below LINE_WORDS + 12 fails the wake check with index 3. -/
theorem test_wakeArrival_fails :
    let s := part .dormant ⟨.frame, false, .none⟩
    let t := run .wakeArrival (s.withCtl { s.ctl with setup := ((smallSetup 1).set 2 64).set 3 70 })
    statusWord t 16 = 3 ∧ statusWord t 0 = 4 ∧ t.ctl.events = 0x0800 ∧ t.ctl.count = 0 := by decide +kernel
/-- 11.1 step 3. -/
theorem test_commit : ((run .commit ((running .commit).withQueue [entry 16 .opn])).queue.map Entry.gen) = [.pending] := by
  decide +kernel
theorem test_fill : (run .fill (withArgs 0x80 0 9 0x1111 0 (running .direct))).port.tenure = some (.fillStep 8) := by decide +kernel
/-- 11.3 step 1. -/
theorem test_copy :
    (run .copy (withArgs 0x8040 0 0xA000 0 0x07C0 (running .frame))).mover =
      ⟨true, .copy, .up, 0x08040, 0x0A000, 0x07C0, 0, 0, false⟩ := by decide +kernel
theorem test_movestop :
    (run .movestop ((running .direct).withMover ⟨true, .fill, .up, 0, 0x80, 9, 0, 0, false⟩)).mover.active = false := by decide +kernel
/-- 11.4 steps 1 and 4. -/
theorem test_clksel_badSwitch :
    let s := withArgs 6 4 0 0 0 (running .direct)
    statusWord (run .clksel (s.withClock ⟨.rcfM, .ready, none, ⟨.locked, .rcf, 2⟩, none⟩)) 13 = 9 := by decide +kernel
theorem test_clksel_extM :
    statusWord (run .clksel (withArgs 6 4 0 0 0 (running .direct))) 21 = 0x0006 ∧
      statusWord (run .clksel (withArgs 6 4 0 0 0 (running .direct))) 22 = 4 := by decide +kernel
/-- 11.4 step 10. -/
theorem test_ack :
    let s := withArgs 0x0900 0 0 0 0 (running .direct)
    (run .ack (s.withCtl { s.ctl with events := 0x0941 })).ctl.events = 0x0041 := by decide +kernel
theorem test_setptr :
    (run .setptr (withArgs 16 0 0 0 0 State.reset)).ctl.ptr = 16 ∧
      (run .setptr (withArgs 17 0 0 0 0 State.reset)).ctl.lastResult = .badArg := by decide +kernel
theorem test_unknownCommand : statusWord (run (.unknownCommand 0x1234) State.reset) 13 = 11 := by decide +kernel
theorem test_malformedCommand : statusWord (run (.malformedCommand 0x5301 ⟨false, true⟩) State.reset) 12 = 0x5300 := by decide +kernel
theorem test_argumentWrite : ((run (.argumentWrite 5 0xABCD ⟨false, true⟩) State.reset).ctl.args.get 5) = 0xAB00 := by decide +kernel
theorem test_setupPortWrite : ((run (.setupPortWrite 2 full) State.reset).ctl.setup.get 0) = 2 := by decide +kernel
theorem test_statusWordWrite : (run (.statusWordWrite 31 0x1234 full) State.reset).mem = [(0x1F813E, 0x34), (0x1F813F, 0x12)] := by
  decide +kernel
/-- 11.4 step 8. -/
theorem test_lossOfXclk :
    let t := run .lossOfXclk ((running .direct).withClock ⟨.extM, .ready, none, ⟨.locked, .xclk, 4⟩, none⟩)
    statusWord t 20 = 0 ∧ statusWord t 22 = 4 ∧ statusWord t 23 = 0 ∧ t.ctl.events = 0x0100 := by decide +kernel
/-- 11.4 steps 5 and 6. -/
theorem test_xclkContinuityReady :
    statusWord (run .xclkContinuityReady
      ((running .direct).withClock ⟨.rcf, .ready, some ⟨.extM, 4, .waitReady⟩, ⟨.off, .xclk, 4⟩, some 0⟩)) 23 = 1 := by decide +kernel
theorem test_multiplierLocked :
    statusWord (run .multiplierLocked
      ((running .direct).withClock ⟨.rcf, .ready, some ⟨.extM, 4, .waitReady⟩, ⟨.locking, .xclk, 4⟩, some 1024⟩)) 21 = 0x0106 := by
  decide +kernel
theorem test_readinessTimeout :
    (run .readinessTimeout
      ((running .direct).withClock ⟨.rcf, .ready, some ⟨.ext, 0, .waitReady⟩, ⟨.off, .rcf, 0⟩, some 0⟩)).ctl.events = 0x0080 := by
  decide +kernel
theorem test_resetAsserted_completes_held_write :
    (run (.resetAsserted 0 false) (withAccess (.writeWait ⟨0x80, 0x0201, full⟩ .entryLeaves false) (running .frame))).mem =
      [(256, 1), (257, 2)] := by decide +kernel
theorem test_powerOnReset_ext :
    (run (.powerOnReset 3 2) State.reset).clock = ⟨.ext, .checking .strap, none, ⟨.off, .rcf, 0⟩, some 0⟩ := by decide +kernel
theorem test_resetReleased_and_strapSampling :
    (run .resetReleased (run (.strapSampling 7 1) (run (.resetAsserted 0 false) State.reset))).pins =
      ⟨false, 7, 1, 7, 1, false⟩ := by decide +kernel
theorem test_minimumHoldElapsed :
    (run .minimumHoldElapsed (withAccess (.readHold 0) (running .direct))).host.access = .none := by decide +kernel
theorem test_preemptedFetchCycleEnd :
    let s := withAccess (.readClaim 0 full) (withTenure (.lineFetch 1 (some 0)) (running .direct))
    (run .preemptedFetchCycleEnd s).scan.bufB.aborted = true ∧
      (run .preemptedFetchCycleEnd s).port = ⟨some (.hostRead 0 0 none none), .queueNext⟩ := by decide +kernel
theorem test_panel_column :
    (run (.panelPortLineSequence 1 true) (showing 0 (running .direct))).panel = ⟨6, true, false, 0, false, false⟩ := by decide +kernel

/-! ### States that meet the hypotheses of the obligations -/

/-- A queue of one entry is sound. -/
theorem queueSound_one {e : Entry} (h : e.sound) : QueueSound [e] := by
  refine ⟨by simp [Config.queueDepth], by simpa using h, by simp, ?_⟩
  cases hw : e.isWriting <;> simp [hw]

/-- The entries of these tests are sound. -/
theorem entry_sound (b : BlockNo) (g : Generation) : (entry b g).sound := by
  refine ⟨by simp [entry], by simp [entry], by simp [entry]⟩

theorem writing_sound (b : BlockNo) {g : Generation} (h : g = .direct ∨ g = .retiring) : (writing b g).sound := by
  refine ⟨by simp [writing, entry], by simp [writing, entry], fun _ => h⟩

theorem witness_PassThroughReachesMemory :
    let held := withAccess (.interventionHold (.status 31)) State.reset
    sharing State.reset = false ∧ State.reset.host.access.busy = false ∧ Memory.wf State.reset.mem = true ∧
      (controlWord State.reset.pins.cps 0).any intervened = false ∧ (controlWord State.reset.pins.cps 0xFFFFF).any intervened = false ∧
      sharing held = false ∧ held.host.access = .interventionHold (.status 31) := by
  decide +kernel

theorem witness_TakenWritesAreDecoded :
    (run (.resetAsserted 0 false) State.reset).pins.reset = true ∧ State.reset.pins.reset = false ∧
      controlWord 0 0xFC000 = some .command ∧ controlWord 7 0xFF800 = some .command ∧ controlWord 0 0xFC001 = some (.arg 0) ∧
      controlWord 0 0xFC006 = some (.arg 5) ∧ controlWord 0 0xFC007 = some .other ∧ controlWord 0 0xFC008 = some .setupPort ∧
      controlWord 0 0xFC009 = some .other ∧ controlWord 0 0xFC07F = some .other ∧ controlWord 0 0xFC080 = some (.status 0) ∧
      controlWord 0 0xFC09F = some (.status 31) ∧ controlWord 0 0xFC0A0 = some .other ∧ controlWord 0 0xFC7FF = some .other ∧
      controlWord 0 0xFC800 = none ∧ controlWord 0 0xFBFFF = none ∧ controlWord 7 0xFFFFF = some .other := by decide +kernel

/-- The ends of window 0 and of the control page. -/
theorem witness_classes :
    let s := running .frame
    classify s 0x7F = .plain ∧ classify s 0x80 = .display ∧ classify s 0xFF = .display ∧ classify s 0x100 = .plain ∧
      classify s 0xFBFFF = .plain ∧ classify s 0xFC000 = .control ∧ classify s 0xFC7FF = .control ∧ classify s 0xFC800 = .plain ∧
      writeGeneration s 0x80 = .opn ∧ writeGeneration s 0x7F = .direct ∧ writeGeneration (running .direct) 0x80 = .direct := by
  decide +kernel

/-- Room for the last entry: 63 entries are held. -/
theorem witness_PostedWriteTakesANewEntry :
    let s := (running .frame).withQueue (manyEntries 63 .opn)
    sharing s = true ∧ s.host.access.busy = false ∧ s.ctl.istate.afterDrainCut = false ∧ full.empty = false ∧
      findEntry s.queue (blockOf 0x80) (writeGeneration s 0x80) = none ∧ mayGoDirect s 0x80 = false ∧ s.queue.length < 64 := by
  decide +kernel

theorem witness_MergedWriteReplacesItsBytes :
    let s := (running .frame).withQueue [entry 16 .opn]
    (sharing s = true ∧ s.host.access.busy = false ∧ s.ctl.istate.afterDrainCut = false ∧ full.empty = false ∧
      (entry 16 .opn).block = blockOf 0x87 ∧ (entry 16 .opn).gen = writeGeneration s 0x87 ∧ (entry 16 .opn).state = .held) ∧
      s.queue = [] ++ entry 16 .opn :: [] ∧ QueueSound s.queue :=
  ⟨by decide +kernel, rfl, queueSound_one (entry_sound 16 .opn)⟩

theorem witness_DirectWriteTakesTheFreePort :
    let s := running .direct
    let mover := fun (done : BitVec 16) => s.withMover ⟨true, .copy, .up, 0x90, 0x88, 8, done, 0, false⟩
    sharing s = true ∧ s.ctl.istate.afterDrainCut = false ∧ full.empty = false ∧ mayGoDirect s 0x80 = true ∧ s.host.access.busy = false ∧
      mayGoDirect (withAccess (.writeWait ⟨0x80, 1, full⟩ .entryLeaves true) s) 0x80 = true ∧
      mayGoDirect (s.withQueue [entry 17 .direct, writing 18 .direct]) 0x80 = true ∧
      mayGoDirect (s.withQueue [entry 17 .direct]) 0x80 = false ∧ mayGoDirect (s.withQueue [entry 16 .opn]) 0x87 = false ∧
      mayGoDirect (mover 8) 0x87 = true ∧ mayGoDirect (mover 7) 0x87 = false ∧
      moverMeets (mover 0).mover (blockOf 0x87) = false ∧ moverMeets (mover 0).mover (blockOf 0x97) = true ∧
      moverMeets (mover 0).mover (blockOf 0x98) = false := by decide +kernel

theorem witness_WritesThatWaitDrainOrAreEmpty :
    let w := (running .direct).withQueue [writing 16 .direct]
    let f := (running .direct).withQueue (manyEntries 64 .direct)
    let d := drained.withQueue [entry 16 .retiring]
    (sharing w = true ∧ w.host.access.busy = false ∧ w.ctl.istate.afterDrainCut = false ∧
      findEntry w.queue (blockOf 0x80) (writeGeneration w 0x80) = some (writing 16 .direct) ∧ (writing 16 .direct).state = .writing) ∧
    (sharing f = true ∧ f.host.access.busy = false ∧ f.ctl.istate.afterDrainCut = false ∧
      findEntry f.queue (blockOf 0x80) (writeGeneration f 0x80) = none ∧ mayGoDirect f 0x80 = false ∧ 64 ≤ f.queue.length ∧
      (f.ctl.mode.sharing = .commit → hasGen f.queue .opn = false)) ∧
    (sharing d = true ∧ d.host.access.busy = false ∧ d.ctl.istate.afterDrainCut = true ∧ blockClear d (blockOf 0x80) = false ∧
      blockClear d (blockOf 0x90) = true) ∧ (Lanes.mk false false).empty = true ∧ (Lanes.mk true false).empty = false := by
  decide +kernel

/-- A spill that frees an entry, and one that frees none. -/
theorem witness_SpillFreesRoomOrTheWriteWaits :
    let meets := fun (s : State) (w : HostWrite) => sharing s = true ∧ s.ctl.istate.afterDrainCut = false ∧ w.lanes.empty = false ∧
      s.ctl.mode.sharing = .commit ∧ 64 ≤ s.queue.length ∧ findEntry s.queue (blockOf w.addr) (writeGeneration s w.addr) = none ∧
      mayGoDirect s w.addr = false ∧ hasGen s.queue .opn = true
    let frees := (running .commit).withQueue (manyEntries 63 .pending ++ [entry 100 .opn])
    let keeps := (running .commit).withQueue (manyEntries 63 .pending ++ [entry 17 .opn])
    let display : HostWrite := ⟨0x80, 1, full⟩
    let inWait := fun (s : State) => withAccess (.writeWait display .entryLeaves true) s
    meets frees display ∧ frees.host.access.busy = false ∧ (commitQueue frees.queue).length < 64 ∧ meets keeps display ∧
      64 ≤ (commitQueue keeps.queue).length ∧ meets (inWait frees) display ∧ meets (inWait keeps) display := by decide +kernel

/-- A PLAIN write of a block that has an OPEN entry, a write to COMMAND that finds the port taken, and a write that is mover-hit. -/
theorem witness_SpillForWritesThatReceiveDirect :
    let s := (running .commit).withQueue (manyEntries 63 .pending ++ [entry 17 .opn])
    let t := withTenure .retire s
    let m := s.withMover ⟨true, .fill, .up, 0, 0x200, 8, 0, 0, false⟩
    hasGen s.queue .opn = true ∧ 64 ≤ s.queue.length ∧
      (writeGeneration s 0x320 = .direct ∧ findEntry s.queue (blockOf 0x320) .direct = none ∧ mayGoDirect s 0x320 = false) ∧
      (writeGeneration t 0xFC000 = .direct ∧ findEntry t.queue (blockOf 0xFC000) .direct = none ∧ mayGoDirect t 0xFC000 = false) ∧
      (writeGeneration m 0x200 = .direct ∧ moverMeets m.mover (blockOf 0x200) = true ∧ findEntry m.queue (blockOf 0x200) .direct = none ∧
        mayGoDirect m 0x200 = false) := by decide +kernel

theorem witness_HeldWriteIsDecidedAfresh :
    let w : HostWrite := ⟨0x80, 1, full⟩
    let s := (withAccess (.writeWait w .entryLeaves true) (running .frame)).withQueue (manyEntries 63 .opn)
    let d := withAccess (.writeWait w .blockClears true) drained
    (s.host.access = .writeWait w .entryLeaves true ∧ s.ctl.istate.afterDrainCut = false ∧ w.lanes.empty = false ∧
      findEntry s.queue (blockOf w.addr) (writeGeneration s w.addr) = none ∧ mayGoDirect s w.addr = false ∧ s.queue.length < 64) ∧
    (d.host.access = .writeWait w .blockClears true ∧ d.ctl.istate.afterDrainCut = true ∧ blockClear d (blockOf w.addr) = true) ∧
    (withAccess (.writeWait w .writingEnds false) (running .frame)).host.access = .writeWait w .writingEnds false ∧
    (running .frame).host.access = .none := by decide +kernel

/-- The entry of a held write is HELD (and the queue full) or WRITING, the queue is full, and the block is not clear. -/
theorem witness_HeldWriteIsDecidedAfresh_finding_entries :
    let w : HostWrite := ⟨0x80, 1, full⟩
    let due := withAccess (.writeWait w .entryLeaves true)
    let f := due ((running .frame).withQueue (manyEntries 64 .opn))
    let d := due (drained.withQueue [entry 16 .retiring])
    (QueueSound [entry 16 .opn] ∧ QueueSound [writing 0 .direct]) ∧
    ((entry 16 .opn).block = blockOf w.addr ∧ (entry 16 .opn).gen = writeGeneration (running .frame) w.addr ∧
      (entry 16 .opn).state = .held) ∧
    ((writing 0 .direct).block = blockOf 7 ∧ (writing 0 .direct).gen = writeGeneration (running .frame) 7 ∧
      (writing 0 .direct).state = .writing) ∧
    (f.host.access = .writeWait w .entryLeaves true ∧ f.ctl.istate.afterDrainCut = false ∧
      findEntry f.queue (blockOf w.addr) (writeGeneration f w.addr) = none ∧ mayGoDirect f w.addr = false ∧ 64 ≤ f.queue.length ∧
      f.ctl.mode.sharing ≠ .commit) ∧
    (d.ctl.istate.afterDrainCut = true ∧ blockClear d (blockOf w.addr) = false) :=
  ⟨⟨queueSound_one (entry_sound 16 .opn), queueSound_one (writing_sound 0 (Or.inl rfl))⟩, by decide +kernel⟩

theorem witness_DirectWriteTenureEnds :
    let ended := withTenure (.hostWrite ⟨0x80, 1, full⟩) (drained.withScan { drained.scan with state := .off })
    (withTenure (.hostWrite ⟨0x80, 1, full⟩) (running .direct)).port.tenure = some (.hostWrite ⟨0x80, 1, full⟩) ∧
      ended.port.tenure = some (.hostWrite ⟨0x80, 1, full⟩) ∧ ended.ctl.istate.afterDrainCut = true ∧ ended.scan.state = .off := by
  decide +kernel

theorem witness_InterventionAnswersReads :
    State.reset.host.access.busy = false ∧ controlWord State.reset.pins.cps 0xFC008 = some .setupPort ∧
      controlWord State.reset.pins.cps 0xFC080 = some (.status 0) ∧ controlWord State.reset.pins.cps 0xFC09F = some (.status 31) ∧
      27 ≤ (27 : Fin 32).val ∧ 27 ≤ (31 : Fin 32).val := by decide +kernel

/-- 10.6: the words that pack fields, away from reset. -/
theorem test_status_words :
    let s := (part (.draining .passive true) ⟨.commit, true, .follower⟩).withMover ⟨true, .copy, .down, 0, 0, 9, 4, 0, false⟩
    let c := s.withClock ⟨.ext, .checking .restart, some ⟨.rcfM, 3, .ready⟩, ⟨.locked, .rcf, 3⟩, some 0⟩
    let p := (c.withPins ⟨false, 5, 2, 5, 2, false⟩).withScan { c.scan with base := 0x1ABCDC }
    statusWord p 0 = 0x0203 ∧ statusWord p 1 = 0x0213 ∧ statusWord p 17 = 0x0111 ∧ statusWord p 20 = 0x0104 ∧ statusWord p 21 = 0x0105 ∧
      statusWord p 24 = 0xBCDC ∧ statusWord p 25 = 0x001A ∧ statusWord p 26 = 0x0025 := by decide +kernel

/-- The first and the last word of the unfinished ranges, and the words beside them. -/
theorem witness_ByteSourcesInOrder :
    let q := [entry 16 .pending, entry 16 .opn]
    let f : Mover := ⟨true, .fill, .up, 0, 0x80, 8, 0, 0x1234, false⟩
    let c : Mover := ⟨true, .copy, .down, 0x100, 0x80, 8, 2, 0, false⟩
    let u : Mover := { c with dir := .up }
    q = [entry 16 .pending] ++ entry 16 .opn :: [] ∧ (entry 16 .opn).block = blockOf 0x80 ∧ (entry 16 .opn).byteAt 0 = some 7 ∧
      (∀ e ∈ q, e.block = blockOf 0x80 → e.byteAt 1 = none) ∧ f.active = true ∧ f.kind = .fill ∧ (destRange f).has 0x80 = true ∧
      (destRange f).has 0x87 = true ∧ (destRange f).has 0x7F = false ∧ (destRange f).has 0x88 = false ∧ c.active = true ∧
      c.kind = .copy ∧ (destRange c).has 0x80 = true ∧ (destRange c).has 0x85 = true ∧ (destRange c).has 0x86 = false ∧
      (srcRange c).has 0x105 = true ∧ (srcRange c).has 0x106 = false ∧ (srcRange u).has 0x101 = false ∧ (srcRange u).has 0x102 = true ∧
      (srcRange u).has 0x107 = true ∧ (srcRange f).has 0 = false ∧ (destRange { f with active := false }).has 0x80 = false := by
  decide +kernel

theorem witness_ReadWithoutTenureIsAnsweredAtOnce :
    let s := (running .frame).withQueue [entry 16 .opn]
    let f := (running .frame).withMover ⟨true, .fill, .up, 0, 0x200, 8, 0, 0x7777, false⟩
    sharing s = true ∧ s.host.access.busy = false ∧ (controlWord s.pins.cps 0x80).any intervened = false ∧
      needsTenure s 0x80 ⟨true, false⟩ = false ∧ (Lanes.mk true false).lane0 = true ∧ (Lanes.mk false true).lane1 = true ∧
      (laneSource s 0x80 true).supplied = none ∧ (laneSource s 0x81 false).supplied = none ∧
      needsTenure s 0x80 ⟨false, false⟩ = false ∧ (laneSource s 0x80 false).supplied = some 7 ∧
      needsTenure f 0x200 ⟨true, false⟩ = false ∧ (laneSource f 0x200 true).supplied = some 0x77 := by decide +kernel

theorem witness_ReadThatNeedsMemoryClaimsThePort :
    let s := running .frame
    let p := withTenure (.lineFetch 0 none) (part .running ⟨.direct, true, .none⟩)
    (sharing s = true ∧ s.host.access.busy = false ∧ (controlWord s.pins.cps 0x80).any intervened = false ∧
      needsTenure s 0x80 full = true ∧ s.ctl.mode.sharing ≠ .direct) ∧
    (sharing p = true ∧ p.host.access.busy = false ∧ needsTenure p 0x80 full = true ∧ p.ctl.mode.sharing = .direct ∧
      p.ctl.mode.preempt = true ∧ p.port.tenure = some (.lineFetch 0 none) ∧
      (2 : BitVec 10).toNat + 1 < (tenureOps p (.lineFetch 0 none)).length ∧
      (tenureOps p (.lineFetch 0 none)).length ≤ (3 : BitVec 10).toNat + 1) ∧
    (withTenure (.lineFetch 0 (some 2)) p).port.tenure = some (.lineFetch 0 (some 2)) := by decide +kernel

/-- A read taken in the last cycle of the four, or said to be taken after it, lets the fetch end normally (R70). -/
theorem test_read_in_the_last_cycle_of_a_fetch :
    let p := withTenure (.lineFetch 0 none) (part .running ⟨.direct, true, .none⟩)
    (run (.hostRead 0x80 full 3) p).port.tenure = some (.lineFetch 0 (some 3)) ∧
      (run (.hostRead 0x80 full 9) p).port.tenure = some (.lineFetch 0 (some 3)) ∧
      (run .lineFetchEnd (run (.hostRead 0x80 full 3) p)).port.tenure = some (.hostRead 0x80 0x80 none none) := by decide +kernel

theorem witness_ReadTenureAnswers :
    (withTenure (.hostRead 0x80 0x80 none (some 9)) (running .direct)).port.tenure = some (.hostRead 0x80 0x80 none (some 9)) := by
  decide +kernel

theorem witness_CommitReleasesTheOpenGeneration :
    State.reset.pins.reset = false ∧ State.reset.ctl.istate ≠ .running ∧ (running .frame).ctl.istate = .running ∧
      (running .frame).ctl.mode.sharing ≠ .commit ∧ (running .commit).ctl.istate = .running ∧
      (running .commit).ctl.mode.sharing = .commit ∧ QueueSound ((running .commit).withQueue [entry 16 .opn]).queue :=
  ⟨by decide, by decide, by decide, by decide, by decide, by decide, queueSound_one (entry_sound 16 .opn)⟩

theorem witness_ShiftsAtTheCuts : QueueSound [entry 16 .opn] ∧ hasGen [entry 16 .opn] .retiring = false :=
  ⟨queueSound_one (entry_sound 16 .opn), by decide⟩

theorem witness_RetireTenureWritesItsEntry :
    let s := withTenure .retire ((running .frame).withQueue [entry 17 .opn, writing 16 .retiring])
    s.port.tenure = some .retire ∧ s.queue = [entry 17 .opn] ++ writing 16 .retiring :: [] ∧ (writing 16 .retiring).state = .writing ∧
      (∀ x ∈ [entry 17 .opn] ++ [], x.state = .held) ∧ Memory.wf s.mem = true := by decide +kernel

theorem witness_PortGrantsInOrder :
    let s := running .direct
    let f := s.withScan { s.scan with fetchDue := some 0 }
    let r := withAccess (.readClaim 0x80 full) s
    let q := s.withQueue [entry 17 .opn, entry 16 .direct]
    let m := s.withMover ⟨true, .fill, .up, 0, 0x80, 8, 7, 0, false⟩
    (sharing State.reset = false ∧ sharing s = true ∧ s.port.tenure = none) ∧ f.scan.fetchDue = some 0 ∧ s.scan.fetchDue = none ∧
      r.host.access = .readClaim 0x80 full ∧ r.port.toggle = .hostNext ∧ queueClaims r.mover r.queue = false ∧
      (withAccess (.writeClaim ⟨0x80, 1, full⟩) s).host.access = .writeClaim ⟨0x80, 1, full⟩ ∧
      (eligible q.mover (entry 16 .direct) = true ∧ (∀ x ∈ [entry 17 .opn], eligible q.mover x = false) ∧
        (∀ x ∈ q.queue, x.state = .held) ∧ q.host.access.claims = false) ∧
      (m.host.access.claims = false ∧ queueClaims m.mover m.queue = false ∧ moverClaims m = true ∧ moverClaims s = false) := by
  decide +kernel

theorem witness_TenureLengthsInPortCycles :
    writing 16 .direct ∈ [writing 16 .direct] ∧ (writing 16 .direct).isWriting = true ∧ QueueSound [writing 16 .direct] :=
  ⟨by decide, by decide, queueSound_one (writing_sound 16 (Or.inl rfl))⟩

/-- Each kind of tenure, its cycles, and the cycle after its last one. -/
theorem witness_pins_of_tenures :
    let s := running .direct
    let r := withTenure .retire (s.withQueue [writing 16 .direct])
    let f := withTenure (.lineFetch 0 none) s
    sharing s = true ∧ s.port.tenure = none ∧ sharing r = true ∧ r.port.tenure = some .retire ∧
      writingEntry r.queue = some (writing 16 .direct) ∧ sharing f = true ∧ f.port.tenure = some (.lineFetch 0 none) ∧
      entryKind (entryWord1 f) = .data ∧ 1 < f.lineWords ∧ (tenureOps f (.lineFetch 0 none)).length = 4 ∧
      (withTenure (.hostRead 0 0 none none) s).port.tenure = some (.hostRead 0 0 none none) ∧
      (withTenure (.hostWrite ⟨0, 1, full⟩) s).port.tenure = some (.hostWrite ⟨0, 1, full⟩) ∧
      (withTenure (.fillStep 8) s).port.tenure = some (.fillStep 8) ∧ (withTenure (.copyStep 4) s).port.tenure = some (.copyStep 4) := by
  decide +kernel

theorem test_pins_of_a_copy_down :
    let s := withTenure (.copyStep 2)
      (((running .direct).withMover ⟨true, .copy, .down, 0x100, 0x101, 4, 1, 0, false⟩).withMem [(0x204, 0x34), (0x205, 0x12)])
    let h : HostPins := ⟨0, false, false, false, ⟨false, false⟩, 0⟩
    (memPins s h 0, memPins s h 2, memPins s h 4) =
      (some ⟨some 0x102, true, true, false, full, .undriven⟩, some ⟨some 0x103, true, false, true, full, .word 0x1234⟩, none) := by
  decide +kernel

/-- R74: MCS# and MRD# are held deasserted while a status word is read by intervention; any other access follows the host. -/
theorem test_pins_in_pass_through :
    let h : HostPins := ⟨0xFC080, true, true, false, full, 0⟩
    (memPins State.reset h 0, memPins State.reset { h with ha := 0x80 } 0) =
      (some ⟨some 0xFC080, false, false, false, full, .undriven⟩, some ⟨some 0x80, true, true, false, full, .undriven⟩) := by
  decide +kernel

theorem witness_LineFetchFillsItsBuffer :
    let s := fun c => withAccess (.readClaim 0x80 full) (withTenure (.lineFetch 255 c) (running .direct))
    (s none).port.tenure = some (.lineFetch 255 none) ∧ (s (some 3)).port.tenure = some (.lineFetch 255 (some 3)) ∧
      (s (some 3)).host.access = .readClaim 0x80 full ∧
      (tenureOps (s (some 3)) (.lineFetch 255 (some 3))).length ≤ (3 : BitVec 10).toNat + 1 ∧
      (2 : BitVec 10).toNat + 1 < (tenureOps (s (some 2)) (.lineFetch 255 (some 2))).length := by decide +kernel

/-- Preempted before the last cycle of the four, and in it. -/
theorem witness_PreemptionAbortsTheFetch :
    let s := withAccess (.readClaim 0x80 full) (withTenure (.lineFetch 0 (some 2)) (running .direct))
    s.port.tenure = some (.lineFetch 0 (some 2)) ∧ s.host.access = .readClaim 0x80 full ∧
      (2 : BitVec 10).toNat + 1 < (tenureOps s (.lineFetch 0 (some 2))).length ∧
      (tenureOps s (.lineFetch 0 (some 3))).length ≤ (3 : BitVec 10).toNat + 1 := by decide +kernel

/-- The boundary that ends LEAD_IN, with a buffer of data and with a REPEAT line. -/
theorem witness_LineSwitchEndsTheLeadIn :
    let s := running .direct
    let x := s.withScan { s.scan with sub := .leadIn, bufA := ⟨0, .data, [5, 6], .ready, true, false⟩ }
    let r := x.withScan { x.scan with bufA := { x.scan.bufA with kind := .repeated } }
    (x.scan.state = .gap ∧ x.scan.sub = .leadIn ∧ fetchOutstanding x = false ∧ 0 < x.lineWords ∧ x.scan.bufA.kind = .data) ∧
      (r.scan.state = .gap ∧ r.scan.sub = .leadIn ∧ fetchOutstanding r = false ∧ 0 < r.lineWords ∧ r.scan.bufA.kind = .repeated) ∧
      (run (.linePeriodBoundary false) x).panel = ⟨5, false, false, 0, false, false⟩ := by decide +kernel

theorem witness_LineSwitchShowsTheNextLine :
    let s := showing 1 (running .direct)
    let r := s.withScan { s.scan with bufA := ⟨2, .repeated, [], .ready, true, true⟩ }
    let d := r.withScan { r.scan with bufB := ⟨1, .dark, [], .showing, false, false⟩ }
    (s.scan.state = .showing ∧ fetchOutstanding s = false ∧ s.scan.line.toNat + 1 < s.lines ∧ 0 < s.lineWords ∧
        (bufferOf s.scan 2).kind ≠ .repeated) ∧
      (r.scan.state = .showing ∧ fetchOutstanding r = false ∧ r.scan.line.toNat + 1 < r.lines ∧ 0 < r.lineWords ∧
        (bufferOf r.scan 2).kind = .repeated ∧ (bufferOf r.scan 1).state = .showing ∧ (bufferOf r.scan 1).kind = .data ∧
        (2 : BitVec 8) ≠ 0) ∧
      (d.scan.state = .showing ∧ fetchOutstanding d = false ∧ d.scan.line.toNat + 1 < d.lines ∧ 0 < d.lineWords ∧
        (bufferOf d.scan 2).kind = .repeated ∧ (bufferOf d.scan 1).kind ≠ .data) := by decide +kernel

theorem witness_CutEndsTheFrame :
    let s := showing 2 (running .frame)
    let d := showing 2 (part (.draining .dormant false) ⟨.frame, false, .none⟩)
    (s.scan.state = .showing ∧ fetchOutstanding s = false ∧ s.lines ≤ s.scan.line.toNat + 1 ∧ s.ctl.istate = .running) ∧
      (d.scan.state = .showing ∧ fetchOutstanding d = false ∧ d.lines ≤ d.scan.line.toNat + 1 ∧
        d.ctl.istate = .draining .dormant false) := by decide +kernel

theorem witness_GapBoundariesCountAndCheck :
    let s := running .frame
    let two := s.withCtl { s.ctl with setup := s.ctl.setup.set 4 2 }
    let ext := (s.withScan { s.scan with sub := .extend }).withQueue [entry 16 .retiring]
    let f := part .running ⟨.frame, false, .follower⟩
    let late := f.withScan { f.scan with sub := .extend, gapCount := 2 }
    let seen := late.withScan { late.scan with syncSeen := true }
    (two.scan.state = .gap ∧ two.scan.sub = .count ∧ fetchOutstanding two = false ∧ two.scan.gapCount.toNat + 1 < two.gapLines) ∧
      (ext.scan.state = .gap ∧ fetchOutstanding ext = false ∧ ext.scan.sub = .extend ∧ ext.ctl.istate.afterDrainCut = false ∧
        hasGen ext.queue .retiring = true) ∧
      (s.scan.state = .gap ∧ fetchOutstanding s = false ∧ s.scan.sub = .count ∧ s.gapLines ≤ s.scan.gapCount.toNat + 1 ∧
        hasGen s.queue .retiring = false ∧ s.ctl.mode.role ≠ .follower) ∧
      (seen.scan.sub = .extend ∧ hasGen seen.queue .retiring = false ∧ seen.scan.syncSeen = true) ∧
      (f.scan.state = .gap ∧ fetchOutstanding f = false ∧ f.scan.sub = .count ∧ f.gapLines ≤ f.scan.gapCount.toNat + 1 ∧
        hasGen f.queue .retiring = false ∧ f.ctl.mode.role = .follower ∧ f.scan.syncSeen = false ∧ (0 : BitVec 8).toNat < f.syncLimit) ∧
      (late.scan.state = .gap ∧ fetchOutstanding late = false ∧ late.scan.sub = .extend ∧ late.ctl.istate.afterDrainCut = false ∧
        hasGen late.queue .retiring = false ∧ late.ctl.mode.role = .follower ∧ late.scan.syncSeen = false ∧
        late.scan.gapCount.toNat = late.syncLimit) := by decide +kernel

theorem witness_DrainEndsWhenQueueAndMoverAreDone :
    let q := drained.withQueue [entry 16 .retiring]
    let bad := drained.withCtl { drained.ctl with setup := drained.ctl.setup.set 1 0 }
    (drained.ctl.istate = .draining .passive true ∧ drained.scan.state = .gap ∧ drained.scan.sub = .extend ∧
      fetchOutstanding drained = false ∧ drained.queue = [] ∧ drained.mover.active = false ∧ drained.port.tenure = none ∧
      drained.host.access.busy = false) ∧ q.queue ≠ [] ∧ (part (.draining .dormant true) ⟨.frame, false, .none⟩).scan.sub = .extend ∧
      wakeFault drained = none ∧ wakeFault bad = some 1 := by decide +kernel

/-- The boundary behind a host tenure, with a claim, and with a held write. -/
theorem witness_DrainEndsWhenQueueAndMoverAreDone_behind_the_host :
    let w : HostWrite := ⟨0x80, 1, full⟩
    let t := withAccess .inTenure (withTenure (.hostWrite w) drained)
    let a := fun x => withAccess x drained
    (t.queue = [] ∧ t.mover.active = false ∧ t.pins.reset = false ∧ t.port.tenure.isSome = true ∧ fetchOutstanding t = false ∧
      t.host.access = .inTenure) ∧
    ((a (.readClaim 0x80 full)).port.tenure = none ∧ (a (.readClaim 0x80 full)).host.access = .readClaim 0x80 full) ∧
    (a (.writeClaim w)).host.access = .writeClaim w ∧
    (a (.writeWait w .blockClears false)).host.access = .writeWait w .blockClears false ∧
    (withTenure (.hostWrite w) (a (.writeWait w .blockClears false))).port.tenure.isSome = true := by decide +kernel

theorem witness_FirstCutStartsTheScan :
    let s := part .starting ⟨.frame, false, .none⟩
    s.ctl.istate = .starting ∧ s.clock.cond = .ready ∧ s.pins.reset = false ∧
      (controlWord s.pins.cps 0xFC080).any intervened = true ∧ (controlWord s.pins.cps 0x80).any intervened = false ∧
      full.empty = false ∧ (Lanes.mk false false).empty = true := by decide +kernel

/-- The clocks at which the sequence changes, and the last clock of the period. -/
theorem witness_PanelRunsTheLineSequence :
    let s := showing 0 (running .direct)
    s.scan.state = .showing ∧ s.scan.timer ≤ (0 : BitVec 12) ∧ (31 : BitVec 12).toNat < s.linePeriod ∧
      (1 : BitVec 12).toNat < s.lineWords ∧ s.lineWords ≤ (2 : BitVec 12).toNat ∧ s.lineWords < (3 : BitVec 12).toNat ∧
      s.lineWords + 2 ≤ (4 : BitVec 12).toNat := by decide +kernel

/-- The range that ends at the last word of memory is accepted, one word more is not; the words around the control page likewise. -/
theorem witness_FillChecksAndStarts :
    let s := running .direct
    let ok := fun (t : State) => fillRefusal t = none
    let bad := fun (t : State) => fillRefusal t = some .badArg
    s.pins.reset = false ∧ State.reset.ctl.istate ≠ .running ∧ s.ctl.istate = .running ∧ s.mover.active = false ∧
      ok (withArgs 0xFFFF 0xF 1 0 0 s) ∧ bad (withArgs 0xFFFF 0xF 2 0 0 s) ∧ ok (withArgs 0xBFFF 0xF 1 0 0 s) ∧
      bad (withArgs 0xBFFF 0xF 2 0 0 s) ∧ bad (withArgs 0xC7FF 0xF 1 0 0 s) ∧ ok (withArgs 0xC800 0xF 1 0 0 s) ∧
      bad (withArgs 0 0x10 1 0 0 s) ∧ bad (withArgs 0 0 0 0 0 s) ∧
      fillRefusal (withArgs 0x87 0 1 0 0 (s.withQueue [entry 16 .direct])) = some .conflict ∧
      fillRefusal (withArgs 0x88 0 1 0 0 (s.withQueue [entry 16 .direct])) = none ∧
      fillRefusal (s.withMover ⟨true, .fill, .up, 0, 0x80, 8, 0, 0, false⟩) = some .busy := by decide +kernel

theorem witness_CopyChecksAndStarts :
    let s := running .direct
    let ok := fun (t : State) => copyRefusal t = none
    let bad := fun (t : State) => copyRefusal t = some .badArg
    ok (withArgs 0xFFFF 0xF 0 0 1 s) ∧ bad (withArgs 0xFFFF 0xF 0 0 2 s) ∧ ok (withArgs 0 0 0xFFFF 0xF 1 s) ∧
      bad (withArgs 0 0 0xFFFF 0xF 2 s) ∧ bad (withArgs 0xC000 0xF 0 0 1 s) ∧ bad (withArgs 0 0 0xC7FF 0xF 1 s) ∧
      bad (withArgs 0 0x10 0 0 1 s) ∧ bad (withArgs 0 0 0 0x10 1 s) ∧ bad (withArgs 0 0 9 0 0 s) ∧
      copyRefusal (withArgs 0x87 0 0 0 1 (s.withQueue [entry 16 .direct])) = some .conflict ∧
      (copyRecord (withArgs 0x80 0 0x87 0 8 s)).dir = .down ∧ (copyRecord (withArgs 0x80 0 0x88 0 8 s)).dir = .up := by decide +kernel

theorem witness_MovestopEndsTheOperation :
    let s := (running .direct).withMover ⟨true, .fill, .up, 0, 0x80, 9, 0, 0, false⟩
    s.pins.reset = false ∧ State.reset.ctl.istate.passThrough = true ∧ s.ctl.istate.passThrough = false ∧ s.mover.active = true ∧
      (running .direct).mover.active = false ∧ s.port.tenure.any Tenure.isMoverStep = false ∧
      (withTenure (.fillStep 8) s).port.tenure.any Tenure.isMoverStep = true := by decide +kernel

/-- Steps that end at the last word of memory. -/
theorem witness_MoverStepsWriteTheirWords :
    let f := withTenure (.fillStep 8) ((running .direct).withMover ⟨true, .fill, .up, 0, 0xFFFF8, 8, 0, 0, false⟩)
    let c := withTenure (.copyStep 4) ((running .direct).withMover ⟨true, .copy, .down, 0xFFFF8, 0x80, 8, 4, 0, false⟩)
    (f.port.tenure = some (.fillStep 8) ∧ PortSound f ∧ Memory.wf f.mem = true ∧ f.mover.dir = .up ∧
      f.mover.dst.toNat + f.mover.length.toNat ≤ 0x100000) ∧
    (c.port.tenure = some (.copyStep 4) ∧ PortSound c ∧ Memory.wf c.mem = true ∧
      c.mover.dst.toNat + c.mover.length.toNat ≤ 0x100000 ∧ c.mover.src.toNat + c.mover.length.toNat ≤ 0x100000) := by
  refine ⟨⟨rfl, ⟨rfl, rfl, ?_⟩, rfl, rfl, by decide⟩, rfl, ⟨rfl, rfl, ?_⟩, rfl, by decide, by decide⟩
  · exact ⟨rfl, rfl, by decide, by decide, by decide⟩
  · exact ⟨rfl, rfl, by decide, by decide, by decide⟩

theorem witness_StepEndCompletesStopsOrGoesOn :
    let m : Mover := ⟨true, .fill, .up, 0, 0x80, 9, 0, 0, false⟩
    m.done.toNat + 9 = m.length.toNat ∧ m.done.toNat + 8 < m.length.toNat ∧ m.done.toNat + 8 ≤ m.length.toNat ∧ m.stopReq = false ∧
      ({ m with stopReq := true }).stopReq = true := by decide +kernel

/-- Factors at the ends of their ranges. -/
theorem witness_ClkselChecksAndMakesASwitch :
    let s := running .direct
    let onRcfM := s.withClock ⟨.rcfM, .ready, none, ⟨.locked, .rcf, 2⟩, none⟩
    s.pins.reset = false ∧ s.ctl.istate = .running ∧ State.reset.ctl.istate = .passive ∧ drained.ctl.istate ≠ .passive ∧
      drained.ctl.istate ≠ .running ∧ s.clock.switch = none ∧ s.clock.isChecking = false ∧
      clkselRefusal (withArgs 5 2 0 0 0 s) .rcfM = none ∧ clkselRefusal (withArgs 5 4 0 0 0 s) .rcfM = none ∧
      clkselRefusal (withArgs 5 1 0 0 0 s) .rcfM = some .badArg ∧ clkselRefusal (withArgs 5 5 0 0 0 s) .rcfM = some .badArg ∧
      clkselRefusal (withArgs 6 16 0 0 0 s) .extM = none ∧ clkselRefusal (withArgs 6 17 0 0 0 s) .extM = some .badArg ∧
      clkselRefusal (withArgs 6 2 0 0 0 onRcfM) .extM = some .badSwitch ∧ clkselRefusal (withArgs 0 0 0 0 0 s) .rcb = some .done ∧
      sourceOfCode 3 = none ∧ sourceOfCode 7 = none ∧ clkselRefusal (withArgs 4 0 0 0 0 s) .ext = none ∧
      clkselRefusal (withArgs 2 0 0 0 0 s) .rcs = none := by decide +kernel

theorem witness_ClockSourcesBecomeReady :
    let check : Clock := ⟨.ext, .checking .strap, none, ⟨.off, .rcf, 0⟩, some 0⟩
    let wait : Clock := ⟨.rcf, .ready, some ⟨.extM, 4, .waitReady⟩, ⟨.off, .xclk, 4⟩, some 0⟩
    check.isChecking = true ∧ check.source = .ext ∧ ({ check with source := .extM }).isChecking = true ∧ wait.isChecking = false ∧
      wait.switch = some ⟨.extM, 4, .waitReady⟩ ∧ wait.mult.state = .off ∧
      ({ wait with mult := ⟨.locking, .xclk, 4⟩ }).mult.state = .locking ∧ State.reset.pins.reset = false ∧
      State.reset.clock.mult.state ≠ .locking ∧ State.reset.clock.switch = none := by decide +kernel

theorem witness_TimeoutAndLossEndTheWait :
    let check : Clock := ⟨.ext, .checking .strap, none, ⟨.off, .rcf, 0⟩, some 0⟩
    let wait : Clock := ⟨.rcf, .ready, some ⟨.extM, 4, .waitReady⟩, ⟨.off, .xclk, 4⟩, some 0⟩
    let ext : Clock := ⟨.ext, .ready, some ⟨.rcf, 0, .ready⟩, ⟨.off, .rcf, 0⟩, none⟩
    check.timer = some 0 ∧ check.cond = .checking .strap ∧ check.isChecking = true ∧ check.switch = none ∧ wait.timer = some 0 ∧
      wait.isChecking = false ∧ wait.switch = some ⟨.extM, 4, .waitReady⟩ ∧ ext.source = .ext ∧ ext.cond = .ready ∧
      ext.switch = some ⟨.rcf, 0, .ready⟩ ∧ State.reset.pins.reset = false ∧
      (run (.resetAsserted 0 false) State.reset).pins.reset = true := by decide +kernel

/-- Field values at the ends of the ranges that ENGAGE allows. -/
theorem witness_EngageFindsTheFirstFault :
    let fault := fun (i : Fin 17) (v : Word) =>
      engageFault (State.reset.withCtl { State.reset.ctl with setup := (smallSetup 1).set i v })
    fault 1 1 = none ∧ fault 1 256 = none ∧ fault 1 257 = some 1 ∧ fault 1 0 = some 1 ∧ fault 2 20 = none ∧ fault 2 21 = some 3 ∧
      fault 3 4095 = none ∧ fault 3 4096 = some 3 ∧ fault 4 63 = none ∧ fault 4 64 = some 4 ∧ fault 5 255 = none ∧
      fault 5 256 = some 5 ∧ fault 6 2 = some 6 ∧ fault 7 32 = some 7 ∧ fault 7 31 = none ∧ fault 9 0 = some 9 ∧
      fault 0 0 = some 0 ∧ fault 0 0x0301 = some 0 := by decide +kernel

/-- The wake check makes the checks of fields 1 to 5 only (R146). -/
theorem test_wake_check_finds_the_first_fault :
    let fault := fun (i : Fin 17) (v : Word) =>
      wakeFault (State.reset.withCtl { State.reset.ctl with setup := (smallSetup 1).set i v })
    fault 0 0 = none ∧ fault 1 0 = some 1 ∧ fault 1 257 = some 1 ∧ fault 2 21 = some 3 ∧ fault 2 513 = some 2 ∧ fault 3 31 = some 3 ∧
      fault 4 64 = some 4 ∧ fault 5 0 = some 5 ∧ fault 6 2 = none ∧ fault 7 32 = none := by decide +kernel

theorem witness_EngageStartsThePart :
    let bad := State.reset.withCtl { State.reset.ctl with setup := (smallSetup 0) }
    State.reset.pins.reset = false ∧ State.reset.ctl.istate = .passive ∧ engageFault State.reset = none ∧
      (running .direct).ctl.istate ≠ .passive ∧ engageFault bad = some 0 := by decide +kernel

theorem witness_DisengageAndQuiesceLeaveRunning :
    (part .starting ⟨.direct, false, .none⟩).ctl.istate = .starting ∧ drained.ctl.istate.isDraining = true ∧
      (part .dormant ⟨.direct, false, .none⟩).ctl.istate = .dormant ∧ (running .direct).clock.switch = none ∧
      ((running .direct).withClock ⟨.rcb, .ready, some ⟨.rcf, 0, .ready⟩, ⟨.off, .rcf, 0⟩, none⟩).clock.switch ≠ none ∧
      State.reset.ctl.istate.passThrough = true ∧ State.reset.pins.reset = false := by decide +kernel

theorem witness_WakeAndResumeLeaveDormant :
    let s := part .dormant ⟨.direct, false, .none⟩
    s.pins.reset = false ∧ s.ctl.istate = .dormant ∧ State.reset.ctl.istate ≠ .dormant ∧ wakeFault s = none ∧
      wakeFault (s.withCtl { s.ctl with setup := s.ctl.setup.set 5 0 }) = some 5 := by decide +kernel

theorem witness_EveryCommandWriteIsRecorded :
    State.reset.pins.reset = false ∧ commandOfCode 0x5300 = none ∧ commandOfCode 0x5342 = none ∧ (Lanes.mk false false).full = false ∧
      (Lanes.mk true false).full = false := by decide +kernel

theorem witness_commands_in_and_out_of_reset :
    (run (.resetAsserted 0 true) (running .commit)).pins.reset = true ∧ (running .commit).pins.reset = false ∧
      ((withArgs 16 0 0 0 0 State.reset).ctl.args.get 0).toNat < 17 ∧
      17 ≤ ((withArgs 17 0 0 0 0 State.reset).ctl.args.get 0).toNat := by decide +kernel

theorem witness_SetupPortWritesTheField :
    State.reset.pins.reset = false ∧ (Lanes.mk true false).full = false ∧ full.full = true ∧ State.reset.ctl.ptr ≠ 6 ∧
      State.reset.ctl.ptr ≠ 7 ∧ State.reset.ctl.ptr ≠ 16 ∧ State.reset.ctl.istate = .passive ∧
      (running .direct).ctl.istate ≠ .passive ∧ (running .direct).ctl.istate ≠ .dormant ∧
      (run .setptr (withArgs 16 0 0 0 0 State.reset)).ctl.ptr = 16 := by decide +kernel

/-- The last base at which a table of 3 lines fits, and the next one. -/
theorem witness_TableBaseIsStaged :
    let s := run .setptr (withArgs 7 0 0 0 0 (running .direct))
    let at_ := fun (lo : Word) => s.withScan { s.scan with stagedLo := lo }
    s.ctl.ptr = 7 ∧ (run .setptr (withArgs 6 0 0 0 0 (running .direct))).ctl.ptr = 6 ∧ s.pins.reset = false ∧
      stagedPasses (at_ 0xFFF4) 31 = true ∧ stagedPasses (at_ 0xFFF8) 31 = false ∧ stagedPasses (at_ 2) 0 = false ∧
      stagedPasses (at_ 0) 32 = false ∧ stagedPasses (at_ 0x7FF4) 31 = true ∧ stagedPasses (at_ 0x7FF8) 31 = false ∧
      stagedPasses (at_ 0x9000) 31 = true ∧ stagedPasses (at_ 0x8FFC) 31 = false := by decide +kernel

theorem witness_StatusWordWriteReachesMemoryOnly :
    sharing State.reset = false ∧ State.reset.host.access.busy = false ∧ sharing (running .frame) = true ∧
      (running .frame).ctl.mode.sharing ≠ .commit ∧ sharing (running .commit) = true ∧ (running .frame).host.access.busy = false := by
  decide +kernel

theorem witness_resets :
    let w : HostWrite := ⟨0x80, 1, full⟩
    let retire := withTenure .retire ((running .frame).withQueue [writing 16 .retiring])
    (running .frame).pins.reset = false ∧ (running .frame).port.tenure = none ∧ (running .frame).host.access = .none ∧
      (withAccess (.writeWait w .entryLeaves true) retire).host.access = .writeWait w .entryLeaves true ∧
      (withAccess (.writeClaim w) retire).host.access = .writeClaim w ∧ (withAccess (.writeHold w) retire).host.access = .writeHold w ∧
      retire.host.access = .none ∧ retire.port.tenure = some .retire ∧ writingEntry retire.queue = some (writing 16 .retiring) ∧
      (withAccess (.readClaim 0x80 full) retire).host.access = .readClaim 0x80 full ∧
      (withAccess (.readHold 0x80) retire).host.access = .readHold 0x80 ∧
      (withAccess (.interventionHold .setupPort) retire).host.access = .interventionHold .setupPort ∧
      ∃ t, exec (.resetAsserted 0 true) (running .frame) = .next t := by
  exact ⟨rfl, rfl, rfl, rfl, rfl, rfl, rfl, rfl, rfl, rfl, rfl, rfl, _, rfl⟩

/-- Host tenures and mover steps in progress at a reset. -/
theorem witness_tenures_cut_by_a_reset :
    let w : HostWrite := ⟨0x80, 1, full⟩
    let read := withAccess .inTenure (withTenure (.hostRead 0x80 0x80 none none) (running .direct))
    let write := withAccess .handedOver (withTenure (.hostWrite w) (running .direct))
    let fill := withTenure (.fillStep 8) ((running .direct).withMover ⟨true, .fill, .up, 0, 0xFFFF0, 16, 8, 0x1234, false⟩)
    let copy := withTenure (.copyStep 4) ((running .direct).withMover ⟨true, .copy, .down, 0xFFFF0, 0, 16, 12, 0, false⟩)
    (read.host.access = .inTenure ∧ read.port.tenure = some (.hostRead 0x80 0x80 none none)) ∧
      (write.host.access = .handedOver ∧ write.port.tenure = some (.hostWrite w)) ∧
      (fill.port.tenure = some (.fillStep 8) ∧ PortSound fill ∧ Memory.wf fill.mem = true ∧ fill.mover.dir = .up ∧
        fill.mover.dst.toNat + fill.mover.length.toNat ≤ 0x100000) ∧
      (copy.port.tenure = some (.copyStep 4) ∧ PortSound copy ∧ Memory.wf copy.mem = true ∧
        copy.mover.dst.toNat + copy.mover.length.toNat ≤ 0x100000 ∧ copy.mover.src.toNat + copy.mover.length.toNat ≤ 0x100000) :=
  ⟨⟨rfl, rfl⟩, ⟨rfl, rfl⟩, ⟨rfl, ⟨rfl, rfl, rfl, rfl, by decide, by decide, by decide⟩, by decide, rfl, by decide⟩,
    rfl, ⟨rfl, rfl, rfl, rfl, by decide, by decide, by decide⟩, by decide, by decide, by decide⟩

/-- R118: a COPY step cut in its first write; the cycle that RESET# cuts completes where the operand says so. -/
theorem test_reset_cuts_a_copy :
    let s := withTenure (.copyStep 2)
      (((running .direct).withMover ⟨true, .copy, .up, 0x100, 0x80, 2, 0, 0, false⟩).withMem [(0x200, 1), (0x202, 2)])
    ((run (.resetAsserted 2 false) s).mem, (run (.resetAsserted 2 true) s).mem) =
      ([(0x200, 1), (0x202, 2)], [(0x100, 1), (0x200, 1), (0x202, 2)]) := by decide +kernel

theorem witness_MinimumHoldReleasesTheHost :
    (withAccess (.readHold 0x80) (running .direct)).host.access = .readHold 0x80 ∧
      (withAccess .inTenure (running .direct)).host.access = .inTenure ∧
      (withAccess .handedOver (running .direct)).host.access = .handedOver ∧ (running .direct).host.access.busy = false ∧
      (withTenure (.hostRead 0 0 none none) (running .direct)).port.tenure = some (.hostRead 0 0 none none) ∧
      (withTenure (.hostWrite ⟨0, 1, full⟩) (running .direct)).port.tenure = some (.hostWrite ⟨0, 1, full⟩) := by decide +kernel

/-- HWAIT in the first clocks of accesses in pass-through and in RUNNING. -/
theorem test_hwait :
    (hwait (run (.hostRead 0x80 full 0) State.reset), hwait (run (.hostRead 0xFC080 full 0) State.reset),
      hwait (run (.hostWrite 0x80 1 full) State.reset), hwait (run (.hostRead 0x80 full 0) (running .direct))) =
      (false, true, false, true) := by decide +kernel

/-- The invariants hold in a state with a retire tenure in progress, from which a step is taken. -/
theorem witness_EveryStepKeepsThePartSound :
    let s := (withTenure .retire ((running .frame).withQueue [writing 16 .retiring])).withPending [.retireTenureEnd]
    PartSound s ∧ ClockSound s ∧ Memory.wf s.mem = true ∧ s.port.tenure = some .retire ∧ (∃ t, step s = .next t) ∧
      ∃ t, exec .retireTenureEnd s = .next t := by
  refine ⟨⟨queueSound_one (writing_sound 16 (Or.inr rfl)), ?_, ⟨by decide, by decide, trivial⟩, ⟨by decide, by decide⟩, ?_⟩,
    ?_, by decide, rfl, ⟨_, rfl⟩, _, rfl⟩
  · intro e he
    rw [List.mem_singleton.1 he]
    decide +kernel
  · refine ⟨by decide, ?_, ?_, ?_, ?_, by decide⟩
    · intro h; exact absurd h (by decide)
    · intro _ _; decide
    · intro h; exact absurd h (by decide)
    · intro h; exact absurd h (by decide)
  · refine ⟨?_, ?_, ?_, by decide⟩
    · intro h; exact absurd h (by decide)
    · intro h; exact absurd h (by decide)
    · intro h; rcases h with h | ⟨a, h⟩ <;> cases h

end Sys2Proof.Tests
end

section
/-! The control page (9.3, 9.6): what ACK and SETPTR do, and IRQ# as a function of the event word and EVENT_ENABLE. -/

namespace Sys2Proof.Machine

/-! ### Events and IRQ# bit by bit (R165, R167) -/

/-- An event is set exactly where its bit of the event word is (10.8). -/
theorem eventSet_eq_getLsbD (events : BitVec 13) (e : Event) : eventSet events e = events.getLsbD e.bit.val := rfl

/-- Raising an event sets its bit, whether or not it was set before (R165). -/
theorem eventSet_raise_self (e : Event) (s : State) : eventSet (raise e s).ctl.events e = true := by
  rw [raise_ctl, eventSet_raiseBit, decide_eq_true rfl, Bool.true_or]

/-- IRQ# bit by bit: EVENT_ENABLE bits 13 to 15 enable nothing (R162, R167). -/
theorem irqAsserted_iff (s : State) :
    irqAsserted s = true ↔ ∃ i, i < 13 ∧ s.ctl.events.getLsbD i = true ∧ (s.ctl.setup.get 16).getLsbD i = true := by
  have hbit : ∀ i, i < 13 → (s.ctl.events &&& s.eventEnable.extractLsb' 0 13).getLsbD i =
      (s.ctl.events.getLsbD i && (s.ctl.setup.get 16).getLsbD i) := by
    intro i hi
    rw [State.eventEnable, BitVec.getLsbD_and, BitVec.getLsbD_extractLsb', decide_eq_true hi, Bool.true_and, Nat.zero_add]
  have hne : irqAsserted s = true ↔ s.ctl.events &&& s.eventEnable.extractLsb' 0 13 ≠ 0 := by
    rw [irqAsserted, Bool.not_eq_true', beq_eq_false_iff_ne]
  rw [hne]
  constructor
  · intro h
    refine Classical.byContradiction fun hnone => h (BitVec.eq_of_getLsbD_eq fun i hi => ?_)
    rw [hbit i hi, BitVec.ofNat_eq_ofNat, BitVec.getLsbD_zero, ← Bool.not_eq_true, Bool.and_eq_true]
    exact fun hb => hnone ⟨i, hi, hb⟩
  · rintro ⟨i, hi, he, hen⟩ h0
    have hset : (0 : BitVec 13).getLsbD i = true := by rw [← h0, hbit i hi, he, hen]; rfl
    rw [BitVec.ofNat_eq_ofNat, BitVec.getLsbD_zero] at hset
    exact Bool.false_ne_true hset

/-- With no event set IRQ# is deasserted, whatever EVENT_ENABLE holds (R167). -/
theorem irqAsserted_of_events_eq_zero {s : State} (h : s.ctl.events = 0) : irqAsserted s = false := by
  rw [irqAsserted, h, BitVec.ofNat_eq_ofNat, BitVec.zero_and, beq_self_eq_true, Bool.not_true]

/-! ### Command rows while RESET# is deasserted (R8, R151) -/

theorem decoded_of_reset_false (f : State → State) {s : State} (h : s.pins.reset = false) : decoded f s = f s := by
  unfold decoded; rw [h]; rfl

theorem exec_ack {s : State} (h : s.pins.reset = false) : exec .ack s = .next (ackEvents s) :=
  congrArg _ (decoded_of_reset_false ackEvents h)

theorem exec_setptr {s : State} (h : s.pins.reset = false) : exec .setptr s = .next (setptr s) :=
  congrArg _ (decoded_of_reset_false setptr h)

/-! ### ACK (R156) -/

/-- ACK changes the event word and the command record, and no other part of the state (R155, R156). -/
theorem ackEvents_eq (s : State) :
    ackEvents s = s.withCtl { s.ctl with
      lastCode := 0x5340, lastResult := .done, count := s.ctl.count + 1
      events := s.ctl.events &&& ~~~((s.ctl.args.get 0).extractLsb' 0 13) } :=
  recordCommand_accepted _ rfl _

/-- A bit stays set exactly where it was set and ARG0 does not name it (R156). -/
theorem ackEvents_events_getLsbD (s : State) {i : Nat} (hi : i < 13) :
    (ackEvents s).ctl.events.getLsbD i = (s.ctl.events.getLsbD i && !(s.ctl.args.get 0).getLsbD i) := by
  rw [ackEvents_eq, State.withCtl_ctl, BitVec.getLsbD_and, BitVec.getLsbD_not, BitVec.getLsbD_extractLsb', decide_eq_true hi,
    Bool.true_and, Bool.true_and, Nat.zero_add]

/-- ACK leaves EVENT_ENABLE, and with it the whole setup record (R156). -/
@[simp] theorem ackEvents_setup (s : State) : (ackEvents s).ctl.setup = s.ctl.setup := rfl

/-- An event raised before the ACK is cleared where ARG0 names it (R156). -/
theorem eventSet_ackEvents_raise (e : Event) (s : State) :
    eventSet (ackEvents (raise e s)).ctl.events e = !(s.ctl.args.get 0).getLsbD e.bit.val := by
  rw [eventSet_eq_getLsbD, ackEvents_events_getLsbD _ e.bit.isLt, ← eventSet_eq_getLsbD, eventSet_raise_self, Bool.true_and]
  rfl

/-- IRQ# after an ACK: some enabled event was set that ARG0 does not name (R156, R167). -/
theorem irqAsserted_ackEvents_iff (s : State) :
    irqAsserted (ackEvents s) = true ↔ ∃ i, i < 13 ∧ s.ctl.events.getLsbD i = true ∧
      (s.ctl.args.get 0).getLsbD i = false ∧ (s.ctl.setup.get 16).getLsbD i = true := by
  rw [irqAsserted_iff, ackEvents_setup]
  refine exists_congr fun i => and_congr_right fun hi => ?_
  rw [ackEvents_events_getLsbD s hi, Bool.and_eq_true, Bool.not_eq_true', and_assoc]

/-! ### SETPTR and the setup port (R157, R57, R160) -/

/-- ARG0 from 0 to 16 is the new pointer (R157). -/
theorem setptr_inRange {s : State} (h : (s.ctl.args.get 0).toNat < 17) :
    setptr s = s.withCtl { s.ctl with
      ptr := ⟨(s.ctl.args.get 0).toNat, h⟩, lastCode := 0x5341, lastResult := .done, count := s.ctl.count + 1 } := by
  have hptr : Fin.ofNat 17 (s.ctl.args.get 0).toNat = ⟨(s.ctl.args.get 0).toNat, h⟩ := Fin.ext (Nat.mod_eq_of_lt h)
  unfold setptr
  rw [if_pos (Nat.le_of_lt_succ h), hptr]
  exact recordCommand_accepted _ rfl _

/-- A greater ARG0 is BADARG, which raises REFUSED and leaves the pointer (R157, R166). -/
theorem setptr_outOfRange {s : State} (h : 17 ≤ (s.ctl.args.get 0).toNat) :
    setptr s = s.withCtl { s.ctl with
      lastCode := 0x5341, lastResult := .badArg, count := s.ctl.count + 1, events := s.ctl.events ||| 0x800 } := by
  unfold setptr
  rw [if_neg (by omega), recordCommand_refused _ rfl, raiseBit_refused]
  rfl

/-- The setup-port write reaches the field at the pointer (R160). -/
theorem storeField_get_ptr (v : Word) (s : State) : (storeField v s).ctl.setup.get s.ctl.ptr = v :=
  Vector.getElem_set_self _

/-- The setup-port write leaves every other field (R160). -/
theorem storeField_get_of_ne (v : Word) {s : State} {i : Fin 17} (h : i ≠ s.ctl.ptr) :
    (storeField v s).ctl.setup.get i = s.ctl.setup.get i :=
  Vector.getElem_set_ne s.ctl.ptr.isLt i.isLt fun hv => h (Fin.ext hv.symm)

/-! ### What a reset leaves of the controller (R149, R168) -/

/-- A reset that is not already asserted leaves the controller's reset state around the setup record (R168). -/
theorem resetAsserted_ctl (cycle : BitVec 10) (cutCompletes : Bool) {s : State} (h : s.pins.reset = false) :
    (resetAsserted cycle cutCompletes s).ctl = resetCtl s.ctl.setup := by
  unfold resetAsserted
  rw [h]
  rfl

/-! ### The obligations -/

/-- Settles O46: the ACK's outcome is `ackEvents s`, and each clause is one of its rules bit by bit. -/
theorem ackClearsTheBitsNamed : Obligations.AckClearsTheBitsNamed := by
  intro s hs
  dsimp only
  rw [← ackEvents_eq]
  refine ⟨exec_ack hs, fun i hi => ackEvents_events_getLsbD s hi, fun e => eventSet_raise_self e _, ?_,
    irqAsserted_ackEvents_iff s⟩
  intro e t ht
  have hraised : exec .ack (raise e s) = .next (ackEvents (raise e s)) := exec_ack hs
  obtain rfl : ackEvents (raise e s) = t := Host.Outcome.next.inj (hraised.symm.trans ht)
  exact eventSet_ackEvents_raise e s

/-- Settles O47: SETPTR by the two ranges of ARG0, and the setup port at the pointer. -/
theorem setptrSetsThePointer : Obligations.SetptrSetsThePointer := by
  intro s hs
  rw [exec_setptr hs]
  exact ⟨fun h => congrArg _ (setptr_inRange h), fun h => congrArg _ (setptr_outOfRange h), rfl,
    fun v => ⟨storeField_get_ptr v s, fun _ hi => storeField_get_of_ne v hi⟩⟩

/-- Settles O52: IRQ# bit by bit; a reset leaves no event and keeps the setup record. -/
theorem irqFollowsEnabledEvents : Obligations.IrqFollowsEnabledEvents := by
  refine ⟨irqAsserted_iff, fun s cycle done hs => ⟨resetAsserted cycle done s, rfl, ?_⟩⟩
  have hctl := resetAsserted_ctl cycle done hs
  have hevents : (resetAsserted cycle done s).ctl.events = 0 := by rw [hctl]; rfl
  have hsetup : (resetAsserted cycle done s).ctl.setup = s.ctl.setup := by rw [hctl]; rfl
  exact ⟨irqAsserted_of_events_eq_zero hevents, hevents, congrArg (·.get 16) hsetup⟩

end Sys2Proof.Machine
end

section
/-! The step and memory: what a step runs, how an invariant of `exec` becomes one of `step`, and that memory changes by port cycles only. -/

namespace Sys2Proof.Machine

/-! ### The step -/

/-- What holds of the state apart from the queue of commands, and is kept by every command, is kept by every step. -/
theorem step_keeps {P : State → Prop} (hpending : ∀ s cs, P s → P (s.withPending cs))
    (hexec : ∀ c s t, P s → exec c s = .next t → P t) (s t : State) (h : P s) (hst : step s = .next t) : P t := by
  unfold step at hst
  split at hst
  · exact Host.Outcome.next.inj hst ▸ h
  · exact hexec _ _ _ (hpending _ _ h) hst

/-- An access that is no fault has the effect of its meaning (R24). -/
theorem of_oneAtATime {s u t : State} (h : oneAtATime s u = .next t) : s.host.access.busy = false ∧ t = u := by
  unfold oneAtATime at h
  split at h
  · cases h
  · rename_i hb
    exact ⟨Bool.eq_false_iff.2 hb, (Host.Outcome.next.inj h).symm⟩

theorem oneAtATime_of_not_busy {s : State} (u : State) (h : s.host.access.busy = false) : oneAtATime s u = .next u := by
  unfold oneAtATime; rw [if_neg (by rw [h]; exact Bool.false_ne_true)]

/-! ### Memory changes by port cycles (R7, R60, R62) -/

/-- Memory is reached by port cycles: `m'` comes from `m` by the accesses of some of them, in order. -/
def ReachedByPort (m m' : Memory) : Prop := ∃ ops, m' = applyOps m ops

theorem ReachedByPort.of_eq {m m' : Memory} (h : m' = m) : ReachedByPort m m' := ⟨[], h⟩

/-- Port cycles keep the canonical form. -/
theorem ReachedByPort.wf {m m' : Memory} (h : ReachedByPort m m') (hm : Memory.wf m = true) : Memory.wf m' = true := by
  obtain ⟨ops, rfl⟩ := h
  exact wf_applyOps ops hm

theorem decoded_mem {f : State → State} (hf : ∀ s, (f s).mem = s.mem) (s : State) : (decoded f s).mem = s.mem := by
  unfold decoded; split
  · rfl
  · exact hf s

/-- A read takes no byte of memory, whether it is answered, claims the port or preempts a fetch (R1, R50, R70). -/
theorem readTaken_mem (a : WordAddr) (lanes : Lanes) (cycle : BitVec 10) (s : State) :
    (readTaken a lanes cycle s).mem = s.mem := by
  have hword : (readWordTaken a lanes cycle s).mem = s.mem := by
    unfold readWordTaken resolveRead passRead
    split
    · split <;> simp
    · simp
  unfold readTaken
  split
  · split
    · simp [intervene]
    · exact hword
  · exact hword

/-- A presented write reaches memory over the pass-through path, or not before its tenure (R2, R7). -/
theorem writePresented_mem (w : HostWrite) (s : State) : ReachedByPort s.mem (writePresented w s).mem := by
  unfold writePresented
  split
  · exact .of_eq (by simp)
  · exact ⟨[hostWriteOp w], by simp [passWrite, writeMemory, applyOps]⟩

theorem afterHostTenure_mem (wake : Bool) (s : State) : (afterHostTenure wake s).mem = s.mem := by
  unfold afterHostTenure; split <;> simp

/-- The cut tenure, and then the held write, reach memory at a reset (R8, R43, R75, R118). -/
theorem memAfterReset_reached (cycle : BitVec 10) (done : Bool) (s : State) :
    ReachedByPort s.mem (memAfterReset cycle done s) := by
  have hcut : ReachedByPort s.mem (cutTenureMem cycle done s) := by
    unfold cutTenureMem
    split
    · exact .of_eq rfl
    · exact ⟨_, rfl⟩
  obtain ⟨ops, hops⟩ := hcut
  unfold memAfterReset
  split
  · rename_i w _
    exact ⟨ops ++ [hostWriteOp w], by rw [applyOps_append, ← hops]; rfl⟩
  · exact ⟨ops, hops⟩

theorem hostReadTenureEnd_mem (wake : Bool) (s : State) : (hostReadTenureEnd wake s).mem = s.mem := by
  unfold hostReadTenureEnd
  split <;> simp [afterHostTenure_mem]

/-- The end of a tenure changes memory by its port cycles (R60, R62). -/
theorem hostWriteTenureEnd_mem (wake : Bool) (s : State) : ReachedByPort s.mem (hostWriteTenureEnd wake s).mem := by
  unfold hostWriteTenureEnd
  split
  · exact ⟨_, by simp only [afterHostTenure_mem, controlTaken_mem, endTenure_mem, releaseHost_mem, State.withMem_mem]; rfl⟩
  all_goals exact .of_eq rfl

theorem retireTenureEnd_mem (s : State) : ReachedByPort s.mem (retireTenureEnd s).mem := by
  unfold retireTenureEnd
  split
  · exact ⟨_, by simp only [settle_mem, endTenure_mem, raiseIf_mem, noteWait_mem, State.withQueue_mem, State.withMem_mem]; rfl⟩
  all_goals exact .of_eq rfl

theorem moverStepDone_mem (t : Tenure) (k : Nat) (s : State) :
    (moverStepDone t k s).mem = applyOps s.mem (tenureOps s t) := by
  simp only [moverStepDone, settle_mem, stepEnded_mem, endTenure_mem, State.withMem_mem]
  rfl

theorem moverStepEnd_mem (s : State) : ReachedByPort s.mem (moverStepEnd s).mem := by
  unfold moverStepEnd
  split
  · exact ⟨_, moverStepDone_mem _ _ s⟩
  · exact ⟨_, moverStepDone_mem _ _ s⟩
  all_goals exact .of_eq rfl

theorem heldWriteDecided_mem (s : State) : (heldWriteDecided s).mem = s.mem := by
  unfold heldWriteDecided; split <;> simp

/-- A line fetch only reads (R62, R91, R92). -/
theorem lineFetchEnd_mem (s : State) : (lineFetchEnd s).mem = s.mem := by
  unfold lineFetchEnd
  split
  · simp
  · split <;> simp
  all_goals rfl

theorem preemptedCycleEnd_mem (s : State) : (preemptedCycleEnd s).mem = s.mem := by
  unfold preemptedCycleEnd
  split
  · simp only [settle_mem, grantHost_mem]; split <;> simp
  all_goals rfl

theorem resetAsserted_mem (cycle : BitVec 10) (done : Bool) (s : State) :
    ReachedByPort s.mem (resetAsserted cycle done s).mem := by
  unfold resetAsserted
  split
  · exact .of_eq rfl
  · exact memAfterReset_reached cycle done s

/-- Every command changes memory by port cycles only. -/
theorem exec_mem (c : Instr) (s t : State) (h : exec c s = .next t) : ReachedByPort s.mem t.mem := by
  cases c with
  | hostRead a lanes cycle =>
    obtain ⟨_, rfl⟩ := of_oneAtATime h
    exact .of_eq (readTaken_mem a lanes cycle s)
  | hostWrite a data lanes =>
    obtain ⟨_, rfl⟩ := of_oneAtATime h
    exact writePresented_mem _ s
  | statusWordWrite k data lanes =>
    obtain ⟨_, rfl⟩ := of_oneAtATime h
    exact writePresented_mem _ s
  | heldWriteDecidedAfresh =>
    obtain rfl := Host.Outcome.next.inj h
    exact .of_eq (heldWriteDecided_mem s)
  | hostReadTenureEnd wake => exact .of_eq (Host.Outcome.next.inj h ▸ hostReadTenureEnd_mem wake s)
  | hostDirectWriteTenureEnd wake => exact Host.Outcome.next.inj h ▸ hostWriteTenureEnd_mem wake s
  | retireTenureEnd => exact Host.Outcome.next.inj h ▸ retireTenureEnd_mem s
  | lineFetchEnd => exact .of_eq (Host.Outcome.next.inj h ▸ lineFetchEnd_mem s)
  | preemptedFetchCycleEnd => exact .of_eq (Host.Outcome.next.inj h ▸ preemptedCycleEnd_mem s)
  | moverStepEnd => exact Host.Outcome.next.inj h ▸ moverStepEnd_mem s
  | resetAsserted cycle done => exact Host.Outcome.next.inj h ▸ resetAsserted_mem cycle done s
  | firstCut access => exact .of_eq (Host.Outcome.next.inj h ▸ firstCut_mem access s)
  | linePeriodBoundary wake => exact .of_eq (Host.Outcome.next.inj h ▸ linePeriodBoundary_mem wake s)
  | fill | copy | movestop =>
    obtain rfl := Host.Outcome.next.inj h
    exact .of_eq ((settle_mem _).trans (decoded_mem (by simp) s))
  | engage | disengage | quiesce | resume | commit | clksel | ack | setptr | argumentWrite | setupPortWrite =>
    obtain rfl := Host.Outcome.next.inj h
    exact .of_eq (decoded_mem (by simp) s)
  | unknownCommand code =>
    obtain rfl := Host.Outcome.next.inj h
    refine .of_eq ?_
    split
    · rfl
    · exact decoded_mem (by simp) s
  | malformedCommand data lanes =>
    obtain rfl := Host.Outcome.next.inj h
    refine .of_eq ?_
    split
    · rfl
    · exact decoded_mem (by simp) s
  | frameSyncArrival =>
    obtain rfl := Host.Outcome.next.inj h
    refine .of_eq ?_
    unfold frameSyncArrival
    split <;> rfl
  | panelPortLineSequence clock half =>
    obtain rfl := Host.Outcome.next.inj h
    refine .of_eq ?_
    unfold panelLineSequence
    split <;> simp
  | wakeArrival =>
    obtain rfl := Host.Outcome.next.inj h
    refine .of_eq ?_
    unfold wakeArrival
    dsimp only
    split <;> simp
  | resetReleased =>
    obtain rfl := Host.Outcome.next.inj h
    refine .of_eq ?_
    unfold resetReleased
    split <;> simp
  | strapSampling cps cks =>
    obtain rfl := Host.Outcome.next.inj h
    refine .of_eq ?_
    unfold strapSampling
    split <;> rfl
  | powerOnReset cps cks => exact .of_eq (Host.Outcome.next.inj h ▸ rfl)
  | minimumHoldElapsed => exact .of_eq (Host.Outcome.next.inj h ▸ rfl)
  | lossOfXclk | xclkContinuityReady | multiplierLocked | readinessTimeout =>
    obtain rfl := Host.Outcome.next.inj h
    exact .of_eq (by simp)

/-! ### The obligations -/

/-- Settles O1: the meaning of `step` on a queue with a command at its front. -/
theorem stepRunsTheFrontCommand : Obligations.StepRunsTheFrontCommand := fun _ _ _ => rfl

/-- Settles O57: every command changes memory by port cycles, and each of these keeps the canonical form. -/
theorem everyStepKeepsMemoryCanonical : Obligations.EveryStepKeepsMemoryCanonical := fun s t h hst =>
  step_keeps (P := fun u => Memory.wf u.mem = true) (fun _ _ hu => hu) (fun c u v hu hv => (exec_mem c u v hv).wf hu) s t h hst

end Sys2Proof.Machine
end

section
/-! The clock invariant: what `ClockSound` depends on, that each operation of the Scan Clock Unit and of the Interposer Controller keeps it, and O58. -/

namespace Sys2Proof.Machine

/-! ### What the invariant depends on -/

/-- The part of the state that `ClockSound` speaks of: the clock unit, CLKFAIL, the interposer state and RESET#. -/
def clockPart (s : State) : Clock × Bool × IState × Bool :=
  (s.clock, eventSet s.ctl.events .clkFail, s.ctl.istate, s.pins.reset)

theorem ClockSound.of_part {s t : State} (h : ClockSound s) (he : clockPart t = clockPart s) : ClockSound t := by
  simp only [clockPart, Prod.mk.injEq] at he
  obtain ⟨hc, hf, hi, hr⟩ := he
  unfold ClockSound
  rw [hc, hf, hi, hr]
  exact h

@[simp] theorem clockPart_withPending (s : State) (x : List Instr) : clockPart (s.withPending x) = clockPart s := rfl
@[simp] theorem clockPart_withMem (s : State) (x : Memory) : clockPart (s.withMem x) = clockPart s := rfl
@[simp] theorem clockPart_withQueue (s : State) (x : List Entry) : clockPart (s.withQueue x) = clockPart s := rfl
@[simp] theorem clockPart_withHost (s : State) (x : HostBus) : clockPart (s.withHost x) = clockPart s := rfl
@[simp] theorem clockPart_withPort (s : State) (x : Port) : clockPart (s.withPort x) = clockPart s := rfl
@[simp] theorem clockPart_withScan (s : State) (x : Scan) : clockPart (s.withScan x) = clockPart s := rfl
@[simp] theorem clockPart_withPanel (s : State) (x : Panel) : clockPart (s.withPanel x) = clockPart s := rfl
@[simp] theorem clockPart_withMover (s : State) (x : Mover) : clockPart (s.withMover x) = clockPart s := rfl
@[simp] theorem clockPart_withFree (s : State) (x : Nat) : clockPart (s.withFree x) = clockPart s := rfl

/-- A change of the controller that keeps CLKFAIL and the interposer state. -/
theorem clockPart_withCtl {s : State} {c : Controller} (hf : eventSet c.events .clkFail = eventSet s.ctl.events .clkFail)
    (hi : c.istate = s.ctl.istate) : clockPart (s.withCtl c) = clockPart s := by
  simp only [clockPart, State.withCtl_clock, State.withCtl_ctl, State.withCtl_pins, hf, hi]

/-- An event other than CLKFAIL. -/
@[simp] theorem clockPart_raise {e : Event} (he : e ≠ .clkFail) (s : State) : clockPart (raise e s) = clockPart s :=
  clockPart_withCtl (by rw [eventSet_raiseBit, decide_eq_false he.symm, Bool.false_or]) rfl

@[simp] theorem clockPart_raiseIf {e : Event} (he : e ≠ .clkFail) (c : Bool) (s : State) :
    clockPart (raiseIf c e s) = clockPart s := by
  cases c
  · rfl
  · exact clockPart_raise he s

@[simp] theorem clockPart_recordCommand (code : Word) (r : Result) (s : State) :
    clockPart (recordCommand code r s) = clockPart s := by
  simp only [clockPart, recordCommand_clock, recordCommand_istate, recordCommand_pins,
    recordCommand_eventSet _ _ _ .clkFail (by decide)]

/-- An operation that leaves clock, controller and pins. -/
theorem clockPart_of_frame {s t : State} (hc : t.clock = s.clock) (hi : t.ctl = s.ctl) (hp : t.pins = s.pins) :
    clockPart t = clockPart s := by
  simp only [clockPart, hc, hi, hp]

@[simp] theorem clockPart_settle (s : State) : clockPart (settle s) = clockPart s :=
  clockPart_of_frame (by simp) (by simp) (by simp)
@[simp] theorem clockPart_noteWait (left retired : Bool) (s : State) : clockPart (noteWait left retired s) = clockPart s :=
  clockPart_of_frame (by simp) (by simp) (by simp)
@[simp] theorem clockPart_grantHost (s : State) : clockPart (grantHost s) = clockPart s :=
  clockPart_of_frame (by simp) (by simp) (by simp)
@[simp] theorem clockPart_endTenure (s : State) : clockPart (endTenure s) = clockPart s := rfl
@[simp] theorem clockPart_holdAccess (a : HostAccess) (s : State) : clockPart (holdAccess a s) = clockPart s := rfl
@[simp] theorem clockPart_driveData (w : Word) (s : State) : clockPart (driveData w s) = clockPart s := rfl
@[simp] theorem clockPart_releaseHost (s : State) : clockPart (releaseHost s) = clockPart s := rfl
@[simp] theorem clockPart_preemptFetch (cycle : BitVec 10) (s : State) : clockPart (preemptFetch cycle s) = clockPart s :=
  clockPart_of_frame (by simp) (by simp) (by simp)
@[simp] theorem clockPart_fetchEnds (line : BitVec 8) (s : State) : clockPart (fetchEnds line s) = clockPart s :=
  clockPart_of_frame (by simp) (by simp) (by simp)
@[simp] theorem clockPart_fetchAborts (line : BitVec 8) (c : BitVec 10) (s : State) :
    clockPart (fetchAborts line c s) = clockPart s :=
  clockPart_of_frame (by simp) (by simp) (by simp)
@[simp] theorem clockPart_drivePanel (b : LineBuffer) (c : Nat) (half : Bool) (s : State) :
    clockPart (drivePanel b c half s) = clockPart s :=
  clockPart_of_frame (by simp) (by simp) (by simp)
@[simp] theorem clockPart_beginLeadIn (s : State) : clockPart (beginLeadIn s) = clockPart s := rfl
@[simp] theorem clockPart_extendGap (waited : Bool) (s : State) : clockPart (extendGap waited s) = clockPart s := rfl

theorem ClockSound.withMem {s : State} (h : ClockSound s) (x : Memory) : ClockSound (s.withMem x) := h
theorem ClockSound.withQueue {s : State} (h : ClockSound s) (x : List Entry) : ClockSound (s.withQueue x) := h
theorem ClockSound.withHost {s : State} (h : ClockSound s) (x : HostBus) : ClockSound (s.withHost x) := h
theorem ClockSound.withPort {s : State} (h : ClockSound s) (x : Port) : ClockSound (s.withPort x) := h
theorem ClockSound.withScan {s : State} (h : ClockSound s) (x : Scan) : ClockSound (s.withScan x) := h
theorem ClockSound.withPanel {s : State} (h : ClockSound s) (x : Panel) : ClockSound (s.withPanel x) := h
theorem ClockSound.raise {s : State} (h : ClockSound s) {e : Event} (he : e ≠ .clkFail) : ClockSound (raise e s) :=
  h.of_part (clockPart_raise he s)
theorem ClockSound.settle {s : State} (h : ClockSound s) : ClockSound (settle s) := h.of_part (clockPart_settle s)
theorem ClockSound.recordCommand {s : State} (h : ClockSound s) (code : Word) (r : Result) :
    ClockSound (recordCommand code r s) := h.of_part (clockPart_recordCommand code r s)

/-! ### The Scan Clock Unit (Section 7) -/

/-- A change of the clock unit where the part is not in reset. -/
theorem ClockSound.withClock {s : State} (h : ClockSound s) {c : Clock}
    (hf : eventSet s.ctl.events .clkFail = true → s.clock.source.external = false → s.clock.noExternalSwitch →
      c.source.external = false ∧ c.noExternalSwitch)
    (hch : c.isChecking = true → c.switch = none) (hsw : s.clock.switch = none → c.switch = none)
    (ht : s.pins.reset = true → s.clock.timer = none → c.timer = none) : ClockSound (s.withClock c) := by
  obtain ⟨hfail, _, hdorm, hreset⟩ := h
  refine ⟨fun hb => hf hb (hfail hb).1 (hfail hb).2, hch, fun hi => hsw (hdorm hi), fun hr => ?_⟩
  obtain ⟨h1, h2, h3⟩ := hreset hr
  exact ⟨h1, h2, ht hr h3⟩

/-- A READY switch is applied: its target is internal where CLKFAIL is set (R128, R131). -/
theorem ClockSound.applyReadySwitch {s : State} (h : ClockSound s) : ClockSound (applyReadySwitch s) := by
  unfold Machine.applyReadySwitch
  split
  · rename_i target f hsw
    refine ClockSound.of_part ?_ (clockPart_raise (by decide) _)
    refine h.withClock (fun _ _ hext => ⟨hext _ hsw, fun p hp => absurd hp (by simp [Clock.applied])⟩) (fun hch => ?_)
      (fun _ => rfl) (fun _ _ => rfl)
    simp [Clock.applied, Clock.isChecking] at hch
  · exact h
  · exact h

theorem ClockSound.applyIfPassive {s : State} (h : ClockSound s) : ClockSound (applyIfPassive s) := by
  unfold Machine.applyIfPassive
  split
  · exact h.applyReadySwitch
  · exact h

/-- A pending switch becomes READY: its target stays (R126). -/
theorem ClockSound.switchReady {s : State} (h : ClockSound s) {p : PendingSwitch} (hp : s.clock.switch = some p) :
    ClockSound (switchReady p s) := by
  refine ClockSound.applyIfPassive (h.withClock (fun _ hs hext => ⟨hs, ?_⟩) (fun hch => ?_) (fun hn => ?_) (fun _ _ => rfl))
  · intro q hq
    obtain rfl := Option.some.inj hq
    exact hext p hp
  · exact absurd (h.2.1 hch) (by simp [hp])
  · simp [hp] at hn

theorem ClockSound.checkReady {s : State} (h : ClockSound s) : ClockSound (checkReady s) :=
  h.withClock (fun _ hs hext => ⟨hs, hext⟩) (fun hch => by simp [Clock.isChecking] at hch) id (fun _ _ => rfl)

theorem ClockSound.startXclkLock {s : State} (h : ClockSound s) (hr : s.pins.reset = false) : ClockSound (startXclkLock s) :=
  h.withClock (fun _ hs hext => ⟨hs, hext⟩) h.2.1 id (fun hrt => by simp [hr] at hrt)

theorem ClockSound.xclkContinuityReady {s : State} (h : ClockSound s) : ClockSound (xclkContinuityReady s) := by
  unfold Machine.xclkContinuityReady
  split
  · exact h
  · rename_i hr
    replace hr : s.pins.reset = false := Bool.eq_false_iff.2 hr
    split
    · split
      · exact h.checkReady
      · split
        · exact h.startXclkLock hr
        · exact h
      all_goals exact h
    · split
      · rename_i hsw
        exact h.switchReady hsw
      · split
        · exact h.startXclkLock hr
        · exact h
      all_goals exact h

theorem ClockSound.multiplierLocked {s : State} (h : ClockSound s) : ClockSound (multiplierLocked s) := by
  unfold Machine.multiplierLocked
  split
  · exact h
  · have hlocked : ClockSound (s.withClock { s.clock with mult := { s.clock.mult with state := .locked } }) :=
      h.withClock (fun _ hs hext => ⟨hs, hext⟩) h.2.1 id (fun _ ht => ht)
    dsimp only
    split
    · exact hlocked.checkReady
    · split
      · rename_i hsw
        split
        · exact hlocked.switchReady hsw
        · exact hlocked
      all_goals exact hlocked

theorem Clock.noExternalSwitch_of_none {c : Clock} (h : c.switch = none) : c.noExternalSwitch := fun p hp => by
  simp [h] at hp

/-- The clock unit after a pending switch is abandoned (R127, R132). -/
def abandoned (p : PendingSwitch) (c : Clock) : Clock :=
  { c with switch := none, timer := none, mult := if p.target.multiplied then c.mult.turnOff else c.mult }

theorem abandonSwitch_eq (p : PendingSwitch) (s : State) :
    abandonSwitch p s = raise .clkAbort (s.withClock (abandoned p s.clock)) := rfl

/-- A switch that is abandoned leaves none (R127, R132). -/
theorem ClockSound.abandonSwitch {s : State} (h : ClockSound s) (p : PendingSwitch) : ClockSound (abandonSwitch p s) :=
  (h.withClock (c := abandoned p s.clock) (fun _ hs _ => ⟨hs, Clock.noExternalSwitch_of_none rfl⟩) (fun _ => rfl)
    (fun _ => rfl) (fun _ _ => rfl)).of_part (clockPart_raise (e := .clkAbort) (by decide) _)

/-- The fall to RCB leaves an internal source (R131, R133, R134). -/
theorem ClockSound.fallToRcb {s : State} (h : ClockSound s) : ClockSound (s.withClock (fallToRcb s.clock)) :=
  h.withClock (fun _ _ hext => ⟨rfl, hext⟩) (fun hch => by simp [Machine.fallToRcb, Clock.isChecking] at hch) id
    (fun _ ht => by simp [Machine.fallToRcb, ht])

/-- CLKFAIL may be raised where the source is internal, no external switch is pending, and RESET# is deasserted (R131). -/
theorem ClockSound.raise_clkFail {s : State} (h : ClockSound s) (hs : s.clock.source.external = false)
    (hx : s.clock.noExternalSwitch) (hr : s.pins.reset = false) : ClockSound (Machine.raise .clkFail s) := by
  obtain ⟨_, hcheck, hdorm, _⟩ := h
  exact ⟨fun _ => ⟨hs, hx⟩, hcheck, hdorm, fun hrt => by simp [hr] at hrt⟩

theorem ClockSound.readinessTimeout {s : State} (h : ClockSound s) : ClockSound (readinessTimeout s) := by
  unfold Machine.readinessTimeout
  split
  · exact h
  · rename_i ht
    have hr : s.pins.reset = false := Bool.eq_false_iff.2 fun hr => ht (by simp [(h.2.2.2 hr).2.2])
    split
    · rename_i hc
      have hnone : s.clock.switch = none := h.2.1 (by simp [Clock.isChecking, hc])
      exact h.fallToRcb.raise_clkFail rfl (Clock.noExternalSwitch_of_none hnone) hr
    · exact h.fallToRcb.of_part (clockPart_raise (by decide) _)
    all_goals
      split
      · exact h.abandonSwitch _
      all_goals exact h

/-- A failover and the end of a pending external switch come together, so that CLKFAIL finds neither an external source nor an external switch
(R131, R132). -/
theorem ClockSound.lossOfXclk {s : State} (h : ClockSound s) : ClockSound (lossOfXclk s) := by
  unfold Machine.lossOfXclk
  split
  · rename_i hw
    have hr : s.pins.reset = false := by
      simp only [xclkWatched, Bool.and_eq_true, Bool.not_eq_true'] at hw
      exact hw.1
    unfold failover
    split
    · unfold abandonExternal
      split
      · rename_i p hp
        split
        · have hdone : ClockSound (s.withClock (abandoned p (Machine.fallToRcb s.clock))) :=
            h.withClock (fun _ _ _ => ⟨rfl, Clock.noExternalSwitch_of_none rfl⟩) (fun _ => rfl) (fun _ => rfl) (fun _ _ => rfl)
          have hfail := hdone.raise_clkFail rfl (Clock.noExternalSwitch_of_none rfl) hr
          exact hfail.of_part (clockPart_raise (e := .clkAbort) (by decide) _)
        · rename_i hint
          refine h.fallToRcb.raise_clkFail rfl (fun q hq => ?_) hr
          obtain rfl : p = q := Option.some.inj (hp.symm.trans hq)
          exact Bool.eq_false_iff.2 hint
      · rename_i hnone
        exact h.fallToRcb.raise_clkFail rfl (Clock.noExternalSwitch_of_none hnone) hr
    · unfold abandonExternal
      split
      · split
        · exact h.abandonSwitch _
        · exact h
      · exact h
  · exact h

/-! ### State changes and commands (Sections 8 and 9) -/

/-- A change of the interposer state where RESET# is deasserted; toward DORMANT no switch may be pending (R125). -/
theorem ClockSound.withIState {s : State} (h : ClockSound s) {c : Controller}
    (hf : eventSet c.events .clkFail = eventSet s.ctl.events .clkFail) (hr : s.pins.reset = false)
    (hi : c.istate = .dormant ∨ (∃ after, c.istate = .draining .dormant after) → s.clock.switch = none) :
    ClockSound (s.withCtl c) := by
  obtain ⟨hfail, hcheck, _, _⟩ := h
  exact ⟨fun hb => hfail (hf ▸ hb), hcheck, hi, fun hrt => by simp [hr] at hrt⟩

theorem ClockSound.setIState {s : State} (h : ClockSound s) {i : IState} (hr : s.pins.reset = false)
    (hi : i = .dormant ∨ (∃ after, i = .draining .dormant after) → s.clock.switch = none) : ClockSound (setIState i s) :=
  h.withIState rfl hr hi

theorem ClockSound.setupFault {s : State} (h : ClockSound s) (f : Option (Fin 16)) :
    ClockSound (s.withCtl { s.ctl with setupFault := f }) := h

/-- On leaving DORMANT no switch is pending, and the source stays (R125, R133). -/
theorem ClockSound.restartClock {s : State} (h : ClockSound s) (hn : s.clock.switch = none) (hr : s.pins.reset = false) :
    ClockSound (s.withClock (restartClock s.clock)) := by
  have hsw : (Machine.restartClock s.clock).switch = none := by
    unfold Machine.restartClock; split <;> exact hn
  have hsrc : (Machine.restartClock s.clock).source = s.clock.source := by
    unfold Machine.restartClock; split <;> rfl
  exact h.withClock (fun _ hs _ => ⟨hsrc ▸ hs, Clock.noExternalSwitch_of_none hsw⟩) (fun _ => hsw) (fun _ => hsw)
    (fun hrt => by simp [hr] at hrt)

theorem ClockSound.leaveDormant {s : State} (h : ClockSound s) (hn : s.clock.switch = none) (hr : s.pins.reset = false) :
    ClockSound (leaveDormant s) :=
  (h.withIState (c := { s.ctl with istate := .starting, setupFault := none }) rfl hr fun _ => hn).restartClock hn hr

theorem ClockSound.wakeUp {s : State} (h : ClockSound s) (hn : s.clock.switch = none) (hr : s.pins.reset = false) :
    ClockSound (wakeUp s) := by
  unfold Machine.wakeUp
  split
  · exact h.leaveDormant hn hr
  · refine ClockSound.of_part h ?_
    rw [clockPart_raise (by decide)]
    rfl

theorem ClockSound.engage {s : State} (h : ClockSound s) (hr : s.pins.reset = false) : ClockSound (engage s) := by
  unfold Machine.engage
  split
  · exact h.recordCommand _ _
  · split
    · refine ClockSound.recordCommand (ClockSound.of_part ?_ (clockPart_withScan _ _)) _ _
      exact h.withIState rfl hr (by simp)
    · exact (h.setupFault _).recordCommand _ _

theorem ClockSound.disengage {s : State} (h : ClockSound s) (hr : s.pins.reset = false) : ClockSound (disengage s) := by
  have hto : ∀ i, (i = .passive ∨ ∃ after, i = .draining .passive after) → ClockSound (Machine.setIState i s) := by
    intro i hi
    refine h.setIState hr fun hd => ?_
    rcases hi with rfl | ⟨_, rfl⟩ <;> simp at hd
  unfold Machine.disengage
  split
  · exact h.recordCommand _ _
  · exact (hto _ (.inl rfl)).applyReadySwitch.recordCommand _ _
  · exact (hto _ (.inr ⟨_, rfl⟩)).recordCommand _ _
  · exact h.recordCommand _ _
  · rename_i hd
    exact ((hto _ (.inl rfl)).restartClock (h.2.2.1 (.inl hd)) hr).recordCommand _ _

theorem ClockSound.quiesce {s : State} (h : ClockSound s) (hr : s.pins.reset = false) : ClockSound (quiesce s) := by
  unfold Machine.quiesce
  split
  · split
    · exact h.recordCommand _ _
    · rename_i hsw
      exact (h.setIState hr fun _ => by simpa using hsw).recordCommand _ _
  all_goals exact h.recordCommand _ _

theorem ClockSound.resume {s : State} (h : ClockSound s) (hr : s.pins.reset = false) : ClockSound (resume s) := by
  unfold Machine.resume
  split
  · exact h.recordCommand _ _
  · rename_i hd
    split
    · exact (h.leaveDormant (h.2.2.1 (.inl (Classical.not_not.1 hd))) hr).recordCommand _ _
    · exact (h.setupFault _).recordCommand _ _

/-- A pending switch that CLKSEL makes: its target is the one the checks passed (R123, R125). -/
theorem Clock.accept_spec (c : Clock) (target : ClockSource) (factor : Word) :
    (∃ p, (c.accept target factor).switch = some p ∧ p.target = target) ∧
      (c.accept target factor).source = c.source ∧ (c.accept target factor).cond = c.cond := by
  unfold Clock.accept
  cases target
  case ext => dsimp only; split <;> exact ⟨⟨_, rfl, rfl⟩, rfl, rfl⟩
  all_goals exact ⟨⟨_, rfl, rfl⟩, rfl, rfl⟩

/-- CLKSEL makes no external switch while CLKFAIL is set, and none at all while the source is CHECKING or the part is in another state than PASSIVE
and RUNNING (R123). -/
theorem ClockSound.clksel {s : State} (h : ClockSound s) (hr : s.pins.reset = false) : ClockSound (clksel s) := by
  unfold Machine.clksel
  split
  · exact h.recordCommand _ _
  · rename_i hi
    split
    · exact h.recordCommand _ _
    · rename_i hbusy
      split
      · exact h.recordCommand _ _
      · rename_i target _
        split
        · exact h.recordCommand _ _
        · rename_i hok
          obtain ⟨⟨p, hp, hpt⟩, hsrc, hcond⟩ := Clock.accept_spec s.clock target (s.ctl.args.get 1)
          have hnc : s.clock.isChecking = false := by simp_all
          have hint : eventSet s.ctl.events .clkFail = true → target.external = false := by
            intro hfail
            unfold clkselRefusal at hok
            simp only [hfail, Bool.and_true] at hok
            split at hok
            · cases hok
            · split at hok
              · cases hok
              · simp_all
          refine ClockSound.applyIfPassive (ClockSound.recordCommand ⟨?_, ?_, ?_, ?_⟩ _ _)
          · refine fun hfail => ⟨hsrc ▸ (h.1 hfail).1, fun q hq => ?_⟩
            obtain rfl := Option.some.inj (hp.symm.trans hq)
            exact hpt ▸ hint hfail
          · intro hch
            simp only [State.withClock_clock, Clock.isChecking, hcond] at hch
            exact absurd hch (by simpa [Clock.isChecking] using hnc)
          · intro hd
            simp only [State.withClock_ctl] at hd
            rcases hd with hd | ⟨_, hd⟩ <;> simp [hd] at hi
          · exact fun hrt => by simp [hr] at hrt

/-- ACK clears bits only (R156). -/
theorem ClockSound.ackEvents {s : State} (h : ClockSound s) : ClockSound (ackEvents s) := by
  refine ClockSound.recordCommand ?_ _ _
  have hle : ∀ {i : Nat}, (s.ctl.events &&& ~~~((s.ctl.args.get 0).extractLsb' 0 13)).getLsbD i = true →
      s.ctl.events.getLsbD i = true := by
    intro i hi
    rw [BitVec.getLsbD_and, Bool.and_eq_true] at hi
    exact hi.1
  obtain ⟨hfail, hcheck, hdorm, hreset⟩ := h
  refine ⟨fun hb => hfail (hle hb), hcheck, hdorm, fun hr => ?_⟩
  obtain ⟨hp, hf, ht⟩ := hreset hr
  exact ⟨hp, Bool.eq_false_iff.2 fun hb => Bool.eq_false_iff.1 hf (hle hb), ht⟩

theorem clockPart_commitOpen (s : State) : clockPart (commitOpen s) = clockPart s :=
  clockPart_of_frame (by simp) (by simp) (by simp)

/-- COMMIT, FILL, COPY, MOVESTOP and SETPTR touch neither the clock nor the interposer state. -/
theorem clockPart_commit (s : State) : clockPart (commit s) = clockPart s := by
  unfold commit
  split
  · simp
  · split <;> simp [clockPart_commitOpen]

theorem clockPart_fill (s : State) : clockPart (fill s) = clockPart s := by
  unfold fill; split <;> simp

theorem clockPart_copy (s : State) : clockPart (copy s) = clockPart s := by
  unfold copy; split <;> simp

theorem clockPart_moverEnds {e : Event} (he : e ≠ .clkFail) (s : State) : clockPart (moverEnds e s) = clockPart s := by
  simp [moverEnds, he]

theorem clockPart_movestop (s : State) : clockPart (movestop s) = clockPart s := by
  unfold movestop
  repeat' split
  all_goals simp [clockPart_moverEnds]

theorem clockPart_setptr (s : State) : clockPart (setptr s) = clockPart s := by
  unfold setptr
  split
  · rw [clockPart_recordCommand]; rfl
  · rw [clockPart_recordCommand]

theorem ClockSound.runCommand {s : State} (h : ClockSound s) (hr : s.pins.reset = false) (c : Command) :
    ClockSound (runCommand c s) := by
  cases c with
  | engage => exact h.engage hr
  | disengage => exact h.disengage hr
  | quiesce => exact h.quiesce hr
  | resume => exact h.resume hr
  | commit => exact h.of_part (clockPart_commit s)
  | fill => exact h.of_part (clockPart_fill s)
  | copy => exact h.of_part (clockPart_copy s)
  | movestop => exact h.of_part (clockPart_movestop s)
  | clksel => exact h.clksel hr
  | ack => exact h.ackEvents
  | setptr => exact h.of_part (clockPart_setptr s)

theorem clockPart_argumentWritten (n : Fin 6) (data : Word) (lanes : Lanes) (s : State) :
    clockPart (argumentWritten n data lanes s) = clockPart s := rfl

theorem clockPart_fieldStored (i : Fin 17) (v : Word) (s : State) : clockPart (fieldStored i v s) = clockPart s := by
  unfold fieldStored stageLo stageHi
  split
  · simp
  · split
    · split <;> simp
    · rfl

theorem clockPart_setupWritten (data : Word) (lanes : Lanes) (s : State) :
    clockPart (setupWritten data lanes s) = clockPart s := by
  have hptr : ∀ u : State, clockPart (advancePtr u) = clockPart u := fun _ => rfl
  unfold setupWritten
  split
  · simp
  · split
    · simp [hptr]
    · rw [hptr, clockPart_fieldStored]
      rfl

/-- What a write that is taken does to the control page (R151). -/
theorem ClockSound.controlTaken {s : State} (h : ClockSound s) (w : HostWrite) : ClockSound (controlTaken w s) := by
  unfold Machine.controlTaken
  split
  · rename_i c _
    unfold decoded
    split
    · exact h
    · rename_i hr
      cases c with
      | command =>
        unfold wordWritten commandWritten
        dsimp only
        repeat' split
        · exact h.runCommand (Bool.eq_false_iff.2 hr) _
        · exact h.recordCommand _ _
        · exact h.recordCommand _ _
      | arg n => exact h.of_part (clockPart_argumentWritten n _ _ s)
      | setupPort => exact h.of_part (clockPart_setupWritten _ _ s)
      | status | other => exact h
  · exact h

theorem clockPart_spill (s : State) : clockPart (spill s) = clockPart s := by simp [spill]

theorem ClockSound.carryOut {s : State} (h : ClockSound s) (w : HostWrite) (t : Treatment) : ClockSound (carryOut w t s) := by
  have htake : ∀ u, clockPart u = clockPart s → ClockSound (takeWrite w u) := fun u hu =>
    ((h.of_part hu).withHost _).controlTaken w
  cases t with
  | take => exact htake s rfl
  | merge g => exact htake _ rfl
  | post g => exact htake _ rfl
  | direct | await | full => exact h

theorem ClockSound.decideWrite {s : State} (h : ClockSound s) (w : HostWrite) : ClockSound (decideWrite w s) := by
  unfold Machine.decideWrite
  split
  · exact (h.of_part (clockPart_spill s)).carryOut w _
  · exact h.carryOut w _

theorem ClockSound.writePresented {s : State} (h : ClockSound s) (w : HostWrite) : ClockSound (writePresented w s) := by
  unfold Machine.writePresented
  split
  · exact ((h.withHost _).decideWrite w).settle
  · exact ((h.withHost _).withMem _).controlTaken w

theorem clockPart_readTaken (a : WordAddr) (lanes : Lanes) (cycle : BitVec 10) (s : State) :
    clockPart (readTaken a lanes cycle s) = clockPart s := by
  have hword : clockPart (readWordTaken a lanes cycle s) = clockPart s := by
    unfold readWordTaken resolveRead passRead
    split
    · split <;> simp
    · simp
  unfold readTaken
  split
  · split
    · simp [intervene]
    · exact hword
  · exact hword

/-! ### The scan and the end of a drain (Section 5) -/

theorem ClockSound.cut {s : State} (h : ClockSound s) : ClockSound (cut s) := by
  refine ClockSound.applyReadySwitch (ClockSound.raise ?_ (by decide))
  have hrest := (h.withScan (s.scan.atCut s.ctl.istate.isDraining)).withPanel s.panel.dark
  revert hrest
  generalize (s.withScan (s.scan.atCut s.ctl.istate.isDraining)).withPanel s.panel.dark = u
  intro hu
  unfold cutQueue
  split
  · rename_i target after hd
    refine ClockSound.of_part ?_ (clockPart_noteWait _ _ _)
    refine (hu.withQueue _).setIState ?_ ?_
    · refine Bool.eq_false_iff.2 fun hr => ?_
      have := (hu.2.2.2 hr).1
      rw [hd] at this
      cases this
    · rintro (hi | ⟨_, hi⟩)
      · cases hi
      · obtain ⟨rfl, _⟩ := IState.draining.inj hi
        exact hu.2.2.1 (.inr ⟨_, hd⟩)
  all_goals exact hu

theorem clockPart_lineSwitch (n : BitVec 8) (s : State) : clockPart (lineSwitch n s) = clockPart s := by
  simp [lineSwitch]

theorem clockPart_checkGap (s : State) : clockPart (checkGap s) = clockPart s := by
  unfold checkGap
  repeat' split
  all_goals simp

theorem clockPart_countGap (s : State) : clockPart (countGap s) = clockPart s := by
  unfold countGap
  split <;> simp [clockPart_checkGap]

/-- The clocks stop in DORMANT: the source stays, and no check is left (R133). -/
theorem ClockSound.enterDormant {s : State} (h : ClockSound s) (wake : Bool) (hn : s.clock.switch = none)
    (hr : s.pins.reset = false) : ClockSound (enterDormant wake s) := by
  have hstop : ClockSound ((Machine.setIState .dormant s).withClock (stopClocks s.clock)) := by
    refine (h.setIState hr fun _ => hn).withClock (fun _ hs hext => ⟨hs, hext⟩) (fun _ => hn) id (fun _ ht => ht)
  unfold Machine.enterDormant
  dsimp only
  split
  · exact hstop.wakeUp hn hr
  · exact hstop

theorem ClockSound.openPath {s : State} (h : ClockSound s) (wake : Bool) : ClockSound (openPath wake s) := by
  have hpin : ClockSound (s.withPins { s.pins with wake := wake }) := h
  unfold Machine.openPath
  dsimp only
  split
  · rename_i after hi
    refine ClockSound.applyReadySwitch (ClockSound.raise ?_ (by decide))
    exact hpin.setIState (Bool.eq_false_iff.2 fun hr => by simp [(h.2.2.2 hr).1] at hi) (by simp)
  · rename_i after hi
    refine (hpin.raise (by decide)).enterDormant wake (h.2.2.1 (.inr ⟨after, hi⟩)) ?_
    exact Bool.eq_false_iff.2 fun hr => by simp [(h.2.2.2 hr).1] at hi
  all_goals exact hpin

theorem ClockSound.drainCheck {s : State} (h : ClockSound s) (wake : Bool) : ClockSound (drainCheck wake s) := by
  unfold Machine.drainCheck drainEnds
  dsimp only
  split
  · split
    · exact h
    · exact ((h.withScan _).withHost _).openPath wake
  · exact h

theorem ClockSound.boundary {s : State} (h : ClockSound s) (wake : Bool) : ClockSound (boundary wake s) := by
  unfold Machine.boundary
  split
  · exact h
  · unfold endLinePeriod
    dsimp only
    split
    · exact (h.withPanel _).cut
    · exact h.of_part (clockPart_lineSwitch _ (s.withPanel _))
  · unfold gapBoundary
    split
    · exact h.of_part (clockPart_countGap s)
    · split
      · exact h.drainCheck wake
      · exact h.of_part (clockPart_checkGap s)
    · exact h.of_part (clockPart_lineSwitch 0 s)

theorem ClockSound.linePeriodBoundary {s : State} (h : ClockSound s) (wake : Bool) : ClockSound (linePeriodBoundary wake s) := by
  unfold Machine.linePeriodBoundary
  split
  · exact h
  · exact ((h.withScan _).boundary wake).settle

theorem ClockSound.firstCut {s : State} (h : ClockSound s) (access : CutAccess) : ClockSound (firstCut access s) := by
  unfold Machine.firstCut
  split
  · rename_i hi
    have hr : s.pins.reset = false := by simpa using hi.2.2
    have hrun : ClockSound (Machine.setIState .running (Machine.cut s)) := h.cut.setIState (by simpa using hr) (by simp)
    have hcut := (hrun.raise (e := .stateChange) (by decide)).withPort ⟨none, .hostNext⟩
    unfold handOver
    split
    · exact hcut
    · split
      · exact hcut
      · exact (hcut.withPort _).withHost _
    · split
      · exact (hcut.withHost _).controlTaken _
      · exact (hcut.withPort _).withHost _
  · exact h

theorem ClockSound.afterHostTenure {s : State} (h : ClockSound s) (wake : Bool) : ClockSound (afterHostTenure wake s) := by
  unfold Machine.afterHostTenure
  split
  · exact h.openPath wake
  · exact h.settle

/-! ### Resets and straps (R134, R135, R149, R150) -/

/-- The clock unit a strap gives, where no event is set and the part is PASSIVE (R134). -/
theorem clockSound_of_strapClock {s : State} (cks : BitVec 2) (hf : eventSet s.ctl.events .clkFail = false)
    (hi : s.ctl.istate = .passive) (hc : s.clock = strapClock cks) : ClockSound s := by
  refine ⟨fun hb => by simp [hf] at hb, fun _ => by rw [hc]; rfl, fun _ => by rw [hc]; rfl, fun _ => ⟨hi, hf, by rw [hc]; rfl⟩⟩

/-- With no event set CLKFAIL is clear. -/
theorem clkFail_clear : eventSet 0 .clkFail = false := rfl

theorem ClockSound.beginStrapCheck {s : State} (h : ClockSound s) (hr : s.pins.reset = false) :
    ClockSound (beginStrapCheck s) := by
  have hbegin : (s.clock.beginStrapCheck.source = s.clock.source) ∧ (s.clock.beginStrapCheck.switch = s.clock.switch) ∧
      s.clock.beginStrapCheck.cond = s.clock.cond := by
    unfold Clock.beginStrapCheck; split <;> exact ⟨rfl, rfl, rfl⟩
  obtain ⟨hsrc, hsw, hcond⟩ := hbegin
  refine h.withClock (fun _ hs hext => ⟨hsrc ▸ hs, fun p hp => hext p (hsw ▸ hp)⟩) (fun hch => ?_) (fun hn => hsw.trans hn)
    (fun hrt => by simp [hr] at hrt)
  rw [hsw]
  refine h.2.1 ?_
  unfold Clock.isChecking at hch ⊢
  rwa [hcond] at hch

theorem ClockSound.resetAsserted {s : State} (h : ClockSound s) (cycle : BitVec 10) (done : Bool) :
    ClockSound (resetAsserted cycle done s) := by
  unfold Machine.resetAsserted
  split
  · exact h
  · exact clockSound_of_strapClock s.pins.cksPins clkFail_clear rfl rfl

theorem clockSound_powerOnReset (cps : BitVec 3) (cks : BitVec 2) (s : State) : ClockSound (powerOnReset cps cks s) :=
  ClockSound.beginStrapCheck (clockSound_of_strapClock cks clkFail_clear rfl rfl) rfl

theorem ClockSound.resetReleased {s : State} (h : ClockSound s) : ClockSound (resetReleased s) := by
  unfold Machine.resetReleased
  split
  · obtain ⟨hfail, hcheck, hdorm, _⟩ := h
    exact ClockSound.beginStrapCheck ⟨hfail, hcheck, hdorm, fun hr => by simp at hr⟩ rfl
  · exact h

theorem ClockSound.strapSampling {s : State} (h : ClockSound s) (cps : BitVec 3) (cks : BitVec 2) :
    ClockSound (strapSampling cps cks s) := by
  unfold Machine.strapSampling
  split
  · rename_i hr
    obtain ⟨hp, hf, _⟩ := h.2.2.2 hr
    exact clockSound_of_strapClock cks hf hp rfl
  · exact h

theorem ClockSound.wakeArrival {s : State} (h : ClockSound s) : ClockSound (wakeArrival s) := by
  have hpin : ClockSound (s.withPins { s.pins with wake := true }) := h
  unfold Machine.wakeArrival
  dsimp only
  split
  · rename_i hi
    exact hpin.wakeUp (h.2.2.1 (.inl hi.1)) (by simpa using hi.2)
  · exact hpin

/-! ### The ends of tenures and the other events -/

theorem ClockSound.heldWriteDecided {s : State} (h : ClockSound s) : ClockSound (heldWriteDecided s) := by
  unfold Machine.heldWriteDecided
  split
  · exact (h.decideWrite _).settle
  all_goals exact h

theorem ClockSound.hostReadTenureEnd {s : State} (h : ClockSound s) (wake : Bool) : ClockSound (hostReadTenureEnd wake s) := by
  unfold Machine.hostReadTenureEnd
  split
  · exact (((h.withHost _).withHost _).withPort _).afterHostTenure wake
  all_goals exact h

theorem ClockSound.hostWriteTenureEnd {s : State} (h : ClockSound s) (wake : Bool) :
    ClockSound (hostWriteTenureEnd wake s) := by
  unfold Machine.hostWriteTenureEnd
  split
  · exact ((((h.withMem _).withHost _).withPort _).controlTaken _).afterHostTenure wake
  all_goals exact h

theorem clockPart_retireTenureEnd (s : State) : clockPart (retireTenureEnd s) = clockPart s := by
  unfold retireTenureEnd
  split
  · simp
  all_goals rfl

theorem clockPart_stepEnded (k : Nat) (s : State) : clockPart (stepEnded k s) = clockPart s := by
  simp only [stepEnded]
  repeat' split
  all_goals simp [clockPart_moverEnds]

theorem clockPart_moverStepEnd (s : State) : clockPart (moverStepEnd s) = clockPart s := by
  have hdone : ∀ t k, clockPart (moverStepDone t k s) = clockPart s := by simp [moverStepDone, clockPart_stepEnded]
  unfold moverStepEnd
  split
  · exact hdone _ _
  · exact hdone _ _
  all_goals rfl

theorem clockPart_lineFetchEnd (s : State) : clockPart (lineFetchEnd s) = clockPart s := by
  unfold lineFetchEnd
  split
  · simp
  · split <;> simp
  all_goals rfl

theorem clockPart_preemptedCycleEnd (s : State) : clockPart (preemptedCycleEnd s) = clockPart s := by
  unfold preemptedCycleEnd
  split
  · rw [clockPart_settle, clockPart_grantHost]
    split <;> simp
  all_goals rfl

theorem clockPart_frameSyncArrival (s : State) : clockPart (frameSyncArrival s) = clockPart s := by
  unfold frameSyncArrival; split <;> rfl

theorem clockPart_panelLineSequence (clock : BitVec 12) (half : Bool) (s : State) :
    clockPart (panelLineSequence clock half s) = clockPart s := by
  unfold panelLineSequence; split <;> simp

/-! ### Every command -/

/-- A command row has its effect while RESET# is deasserted only (R8, R151). -/
theorem ClockSound.decoded {s : State} (h : ClockSound s) {f : State → State}
    (hf : s.pins.reset = false → ClockSound (f s)) : ClockSound (decoded f s) := by
  unfold Machine.decoded
  split
  · exact h
  · rename_i hr
    exact hf (Bool.eq_false_iff.2 hr)

/-- Every command keeps the clock unit sound. -/
theorem ClockSound.exec {s t : State} (c : Instr) (h : ClockSound s) (hx : exec c s = .next t) : ClockSound t := by
  cases c with
  | hostRead a lanes cycle =>
    obtain ⟨_, rfl⟩ := of_oneAtATime hx
    exact h.of_part (clockPart_readTaken a lanes cycle s)
  | hostWrite a data lanes =>
    obtain ⟨_, rfl⟩ := of_oneAtATime hx
    exact h.writePresented _
  | statusWordWrite k data lanes =>
    obtain ⟨_, rfl⟩ := of_oneAtATime hx
    exact h.writePresented _
  | heldWriteDecidedAfresh => exact Host.Outcome.next.inj hx ▸ h.heldWriteDecided
  | hostReadTenureEnd wake => exact Host.Outcome.next.inj hx ▸ h.hostReadTenureEnd wake
  | hostDirectWriteTenureEnd wake => exact Host.Outcome.next.inj hx ▸ h.hostWriteTenureEnd wake
  | retireTenureEnd => exact Host.Outcome.next.inj hx ▸ h.of_part (clockPart_retireTenureEnd s)
  | lineFetchEnd => exact Host.Outcome.next.inj hx ▸ h.of_part (clockPart_lineFetchEnd s)
  | preemptedFetchCycleEnd => exact Host.Outcome.next.inj hx ▸ h.of_part (clockPart_preemptedCycleEnd s)
  | moverStepEnd => exact Host.Outcome.next.inj hx ▸ h.of_part (clockPart_moverStepEnd s)
  | linePeriodBoundary wake => exact Host.Outcome.next.inj hx ▸ h.linePeriodBoundary wake
  | frameSyncArrival => exact Host.Outcome.next.inj hx ▸ h.of_part (clockPart_frameSyncArrival s)
  | firstCut access => exact Host.Outcome.next.inj hx ▸ h.firstCut access
  | engage => exact Host.Outcome.next.inj hx ▸ h.decoded h.engage
  | disengage => exact Host.Outcome.next.inj hx ▸ h.decoded h.disengage
  | quiesce => exact Host.Outcome.next.inj hx ▸ h.decoded h.quiesce
  | resume => exact Host.Outcome.next.inj hx ▸ h.decoded h.resume
  | commit => exact Host.Outcome.next.inj hx ▸ h.decoded fun _ => h.of_part (clockPart_commit s)
  | fill => exact Host.Outcome.next.inj hx ▸ (h.decoded fun _ => h.of_part (clockPart_fill s)).settle
  | copy => exact Host.Outcome.next.inj hx ▸ (h.decoded fun _ => h.of_part (clockPart_copy s)).settle
  | movestop => exact Host.Outcome.next.inj hx ▸ (h.decoded fun _ => h.of_part (clockPart_movestop s)).settle
  | clksel => exact Host.Outcome.next.inj hx ▸ h.decoded h.clksel
  | ack => exact Host.Outcome.next.inj hx ▸ h.decoded fun _ => h.ackEvents
  | setptr => exact Host.Outcome.next.inj hx ▸ h.decoded fun _ => h.of_part (clockPart_setptr s)
  | unknownCommand code =>
    obtain rfl := Host.Outcome.next.inj hx
    split
    · exact h
    · exact h.decoded fun _ => h.recordCommand _ _
  | malformedCommand data lanes =>
    obtain rfl := Host.Outcome.next.inj hx
    split
    · exact h
    · exact h.decoded fun _ => h.recordCommand _ _
  | argumentWrite n data lanes =>
    exact Host.Outcome.next.inj hx ▸ h.decoded fun _ => h.of_part (clockPart_argumentWritten n data lanes s)
  | setupPortWrite data lanes =>
    exact Host.Outcome.next.inj hx ▸ h.decoded fun _ => h.of_part (clockPart_setupWritten data lanes s)
  | wakeArrival => exact Host.Outcome.next.inj hx ▸ h.wakeArrival
  | lossOfXclk => exact Host.Outcome.next.inj hx ▸ h.lossOfXclk
  | xclkContinuityReady => exact Host.Outcome.next.inj hx ▸ h.xclkContinuityReady
  | multiplierLocked => exact Host.Outcome.next.inj hx ▸ h.multiplierLocked
  | readinessTimeout => exact Host.Outcome.next.inj hx ▸ h.readinessTimeout
  | resetAsserted cycle done => exact Host.Outcome.next.inj hx ▸ h.resetAsserted cycle done
  | resetReleased => exact Host.Outcome.next.inj hx ▸ h.resetReleased
  | powerOnReset cps cks => exact Host.Outcome.next.inj hx ▸ clockSound_powerOnReset cps cks s
  | minimumHoldElapsed => exact Host.Outcome.next.inj hx ▸ h.withHost _
  | panelPortLineSequence clock half =>
    exact Host.Outcome.next.inj hx ▸ h.of_part (clockPart_panelLineSequence clock half s)
  | strapSampling cps cks => exact Host.Outcome.next.inj hx ▸ h.strapSampling cps cks

/-- Settles O58: the invariant does not see the queue of commands, and every command keeps it. -/
theorem everyStepKeepsTheClockSound : Obligations.EveryStepKeepsTheClockSound := fun s t h hst =>
  step_keeps (P := ClockSound) (fun _ _ hu => hu) (fun c _ _ hu hv => hu.exec c hv) s t h hst

end Sys2Proof.Machine
end

section
/-! The part invariant, its parts: what `PartSound` depends on, what follows from it, and how it is kept by a change of one block. -/

namespace Sys2Proof.Machine

/-! ### What the invariant depends on -/

/-- What `PartSound` sees of a state. -/
structure PartView where
  queue : List Entry
  mover : Mover
  tenure : Option Tenure
  access : HostAccess
  istate : IState
  generation : BlockNo → Generation
  sharing : Sharing
  reset : Bool
  scan : ScanState
  sub : SubPhase
  due : Option (BitVec 8)

def view (s : State) : PartView where
  queue := s.queue
  mover := s.mover
  tenure := s.port.tenure
  access := s.host.access
  istate := s.ctl.istate
  generation := blockGeneration s
  sharing := s.ctl.mode.sharing
  reset := s.pins.reset
  scan := s.scan.state
  sub := s.scan.sub
  due := s.scan.fetchDue

/-- Two states with the same view are sound together. -/
theorem PartSound.of_view {s t : State} (h : PartSound s) (hv : view t = view s) : PartSound t := by
  simp only [view, PartView.mk.injEq] at hv
  obtain ⟨hq, hm, ht, ha, hi, hg, hs, hr, hsc, hsub, hd⟩ := hv
  have hfo : fetchOutstanding t = fetchOutstanding s := by unfold fetchOutstanding; rw [hd, ht]
  unfold PartSound EntriesPlaced PortSound PhaseSound Quiet AfterDrainCut DrainOver at h ⊢
  rw [hq, hm, ht, ha, hi, hg, hs, hr, hsc, hsub, hd, hfo]
  exact h

@[simp] theorem view_withPending (s : State) (x : List Instr) : view (s.withPending x) = view s := rfl
@[simp] theorem view_withMem (s : State) (x : Memory) : view (s.withMem x) = view s := rfl
@[simp] theorem view_withPanel (s : State) (x : Panel) : view (s.withPanel x) = view s := rfl
@[simp] theorem view_withClock (s : State) (x : Clock) : view (s.withClock x) = view s := rfl
@[simp] theorem view_withFree (s : State) (x : Nat) : view (s.withFree x) = view s := rfl
@[simp] theorem view_withHost (s : State) (x : HostBus) : view (s.withHost x) = { view s with access := x.access } := rfl
@[simp] theorem view_withQueue (s : State) (x : List Entry) : view (s.withQueue x) = { view s with queue := x } := rfl
@[simp] theorem view_withMover (s : State) (x : Mover) : view (s.withMover x) = { view s with mover := x } := rfl
@[simp] theorem view_withPort (s : State) (x : Port) : view (s.withPort x) = { view s with tenure := x.tenure } := rfl
@[simp] theorem view_withScan (s : State) (x : Scan) :
    view (s.withScan x) = { view s with scan := x.state, sub := x.sub, due := x.fetchDue } := rfl
@[simp] theorem view_setIState (i : IState) (s : State) : view (setIState i s) = { view s with istate := i } := rfl
@[simp] theorem view_raise (e : Event) (s : State) : view (raise e s) = view s := rfl

/-- The generation that writes to a block receive depends on the setup record, the sharing mode and the CPS strap (R3 to R5, R10). -/
theorem blockGeneration_congr {s t : State} (hset : t.ctl.setup = s.ctl.setup) (hmode : t.ctl.mode.sharing = s.ctl.mode.sharing)
    (hp : t.pins.cps = s.pins.cps) : blockGeneration t = blockGeneration s := by
  funext b
  unfold blockGeneration writeGeneration classify
  rw [hset, hmode, hp]

/-- A change of the controller's other fields. -/
theorem view_withCtl {s : State} {c : Controller} (hi : c.istate = s.ctl.istate) (hset : c.setup = s.ctl.setup)
    (hmode : c.mode = s.ctl.mode) : view (s.withCtl c) = view s := by
  have hg : blockGeneration (s.withCtl c) = blockGeneration s := blockGeneration_congr hset (congrArg _ hmode) rfl
  simp only [view, hg, State.withCtl_ctl, hi, hmode]
  rfl

@[simp] theorem view_raiseIf (c : Bool) (e : Event) (s : State) : view (raiseIf c e s) = view s := by cases c <;> rfl
@[simp] theorem view_recordCommand (code : Word) (r : Result) (s : State) : view (recordCommand code r s) = view s :=
  (view_raiseIf _ _ _).trans (view_withCtl rfl rfl rfl)
@[simp] theorem view_applyReadySwitch (s : State) : view (applyReadySwitch s) = view s := by
  unfold applyReadySwitch; split <;> rfl
@[simp] theorem view_applyIfPassive (s : State) : view (applyIfPassive s) = view s := by
  unfold applyIfPassive; split <;> simp
@[simp] theorem view_endTenure (s : State) : view (endTenure s) = { view s with tenure := none } := rfl
@[simp] theorem view_holdAccess (a : HostAccess) (s : State) : view (holdAccess a s) = { view s with access := a } := rfl
@[simp] theorem view_driveData (w : Word) (s : State) : view (driveData w s) = view s := rfl
@[simp] theorem view_releaseHost (s : State) : view (releaseHost s) = { view s with access := .none } := rfl
@[simp] theorem view_drivePanel (b : LineBuffer) (c : Nat) (half : Bool) (s : State) :
    view (drivePanel b c half s) = view s := rfl

/-! ### What follows from the invariant -/

theorem passThrough_eq (i : IState) : i.passThrough = !(i == .running || i.isDraining) := by
  cases i <;> rfl

theorem passThrough_of_afterDrainCut {i : IState} (h : i.afterDrainCut = true) : i.passThrough = false := by
  cases i with
  | draining _ _ => rfl
  | passive | starting | running | dormant => cases h

/-- RUNNING and DRAINING share the memory; no other state does (R7). -/
theorem PartSound.sharing_eq {s : State} (h : PartSound s) : sharing s = !s.ctl.istate.passThrough := by
  obtain ⟨_, _, _, _, hreset, _⟩ := h
  unfold sharing
  rw [passThrough_eq, Bool.not_not]
  cases hr : s.pins.reset with
  | false => rfl
  | true => rw [hreset hr]; rfl

theorem PartSound.quiet {s : State} (h : PartSound s) (hi : s.ctl.istate.passThrough = true) : Quiet s := h.2.2.2.2.2.1 hi

/-- A state that is not quiet is RUNNING or DRAINING. -/
theorem PartSound.not_passThrough {s : State} (h : PartSound s) (hn : ¬ Quiet s) : s.ctl.istate.passThrough = false :=
  Bool.eq_false_iff.2 fun hi => hn (h.quiet hi)

theorem PartSound.not_passThrough_of_busy {s : State} (h : PartSound s) (hb : s.host.access.busy = true) :
    s.ctl.istate.passThrough = false :=
  h.not_passThrough fun ⟨_, _, _, _, _, hq⟩ => by simp [hb] at hq

theorem PartSound.not_passThrough_of_tenure {s : State} (h : PartSound s) {t : Tenure} (ht : s.port.tenure = some t) :
    s.ctl.istate.passThrough = false :=
  h.not_passThrough fun ⟨_, _, _, hq, _, _⟩ => by simp [ht] at hq

theorem PartSound.not_passThrough_of_scan {s : State} (h : PartSound s) (hs : s.scan.state ≠ .off) :
    s.ctl.istate.passThrough = false :=
  h.not_passThrough fun ⟨_, _, hq, _, _, _⟩ => hs hq

/-- In RUNNING and DRAINING RESET# is deasserted (R149). -/
theorem PartSound.reset_eq_false {s : State} (h : PartSound s) (hi : s.ctl.istate.passThrough = false) :
    s.pins.reset = false :=
  Bool.eq_false_iff.2 fun hr => by
    obtain ⟨_, _, _, _, hreset, _⟩ := h
    rw [hreset hr] at hi
    cases hi

/-- After the drain cut the scan is OFF or in EXTEND (R87). -/
theorem PartSound.not_afterDrainCut {s : State} (h : PartSound s) (hoff : s.scan.state ≠ .off)
    (hext : ¬(s.scan.state = .gap ∧ s.scan.sub = .extend)) : s.ctl.istate.afterDrainCut = false :=
  Bool.eq_false_iff.2 fun ha => by
    obtain ⟨_, _, _, _, _, _, _, hcut, _⟩ := h
    exact (hcut ha).2.2.elim hoff hext

/-- After the drain cut no line is fetched (R87). -/
theorem PartSound.not_afterDrainCut_of_fetch {s : State} (h : PartSound s) (hf : fetchOutstanding s = true) :
    s.ctl.istate.afterDrainCut = false :=
  Bool.eq_false_iff.2 fun ha => by
    obtain ⟨_, _, _, _, _, _, _, hcut, _⟩ := h
    rw [(hcut ha).2.1] at hf
    cases hf

/-- An access that is not busy is served by no tenure. -/
theorem HostAccess.served_of_not_busy {a : HostAccess} (h : a.busy = false) : a.served = false := by
  cases a with
  | none => rfl
  | readHold _ | interventionHold _ | writeHold _ => rfl
  | readClaim _ _ | writeClaim _ | writeWait _ _ _ => rfl
  | inTenure | handedOver => cases h

/-! ### The host side -/

/-- A held write waits. -/
def HostAccess.isWait : HostAccess → Bool
  | .writeWait _ _ _ => true
  | .none | .readHold _ | .interventionHold _ | .writeHold _ | .readClaim _ _ | .writeClaim _ | .inTenure | .handedOver => false

theorem drainOver_iff (s : State) :
    DrainOver s ↔ s.queue = [] ∧ s.mover.active = false ∧ s.host.access.isWait = false := by
  have hw : s.host.access.isWait = false ↔ ∀ w why due, s.host.access ≠ .writeWait w why due := by
    cases s.host.access <;> simp [HostAccess.isWait]
  unfold DrainOver
  rw [hw]

/-- A step in progress has its words to write (R109, R110). -/
def StepFits (m : Mover) : Option Tenure → Prop
  | some (.fillStep k) => m.active = true ∧ m.kind = .fill ∧ 0 < k ∧ k ≤ 8 ∧ k ≤ m.remaining
  | some (.copyStep k) => m.active = true ∧ m.kind = .copy ∧ 0 < k ∧ k ≤ 4 ∧ k ≤ m.remaining
  | some (.hostRead _ _ _ _) | some (.hostWrite _) | some .retire | some (.lineFetch _ _) | none => True

theorem portSound_iff (s : State) : PortSound s ↔
    s.port.tenure.any Tenure.isHost = s.host.access.served ∧
      s.port.tenure.any Tenure.isRetire = s.queue.any Entry.isWriting ∧ StepFits s.mover s.port.tenure := by
  unfold PortSound StepFits
  rcases s.port.tenure with _ | t
  · rfl
  · cases t <;> rfl

theorem stepFits_of_no_step (m : Mover) {t : Option Tenure} (h : t.any Tenure.isMoverStep = false) : StepFits m t := by
  rcases t with _ | t
  · trivial
  · cases t <;> trivial

/-- A change of the tenure and of the host's access together. -/
theorem PartSound.withPortHost {s : State} (h : PartSound s) {p : Port} {x : HostBus}
    (hh : p.tenure.any Tenure.isHost = x.access.served) (hr : p.tenure.any Tenure.isRetire = s.queue.any Entry.isWriting)
    (hst : StepFits s.mover p.tenure) (hi : s.ctl.istate.passThrough = true → p.tenure = none ∧ x.access.busy = false)
    (hf : s.ctl.istate.afterDrainCut = true → p.tenure.any Tenure.isLineFetch = false)
    (hw : s.ctl.istate.afterDrainCut = true → s.scan.state = .off → x.access.isWait = false) :
    PartSound ((s.withPort p).withHost x) := by
  obtain ⟨hq, he, _, hm, hreset, hquiet, hscan, hcut, hover, hshow⟩ := h
  refine ⟨hq, he, (portSound_iff _).2 ⟨hh, hr, hst⟩, hm, hreset, fun hi' => ?_, hscan, fun ha => ?_, fun ha ho => ?_, hshow⟩
  · obtain ⟨h1, h2, h3, _, h5, _⟩ := hquiet hi'
    exact ⟨h1, h2, h3, (hi hi').1, h5, (hi hi').2⟩
  · obtain ⟨h1, h2, h3⟩ := hcut ha
    refine ⟨h1, ?_, h3⟩
    rw [fetchOutstanding, Bool.or_eq_false_iff] at h2 ⊢
    exact ⟨h2.1, hf ha⟩
  · obtain ⟨h1, h2, _⟩ := (drainOver_iff s).1 (hover ha ho)
    exact (drainOver_iff _).2 ⟨h1, h2, hw ha ho⟩

theorem PartSound.tenure_isHost {s : State} (h : PartSound s) :
    s.port.tenure.any Tenure.isHost = s.host.access.served := ((portSound_iff s).1 h.2.2.1).1

theorem PartSound.tenure_isRetire {s : State} (h : PartSound s) :
    s.port.tenure.any Tenure.isRetire = s.queue.any Entry.isWriting := ((portSound_iff s).1 h.2.2.1).2.1

theorem PartSound.stepFits {s : State} (h : PartSound s) : StepFits s.mover s.port.tenure := ((portSound_iff s).1 h.2.2.1).2.2

theorem PartSound.no_fetch {s : State} (h : PartSound s) (ha : s.ctl.istate.afterDrainCut = true) :
    s.port.tenure.any Tenure.isLineFetch = false := by
  obtain ⟨_, _, _, _, _, _, _, hcut, _⟩ := h
  have := (hcut ha).2.1
  rw [fetchOutstanding, Bool.or_eq_false_iff] at this
  exact this.2

theorem PartSound.not_isWait {s : State} (h : PartSound s) (ha : s.ctl.istate.afterDrainCut = true)
    (ho : s.scan.state = .off) : s.host.access.isWait = false := by
  obtain ⟨_, _, _, _, _, _, _, _, hover, _⟩ := h
  exact ((drainOver_iff s).1 (hover ha ho)).2.2

/-- A change of the host's access that no tenure serves or stops serving. -/
theorem PartSound.withHost {s : State} (h : PartSound s) {x : HostBus} (hs : x.access.served = s.host.access.served)
    (hb : s.ctl.istate.passThrough = true → x.access.busy = false)
    (hw : s.ctl.istate.afterDrainCut = true → s.scan.state = .off → x.access.isWait = false) : PartSound (s.withHost x) :=
  h.withPortHost (p := s.port) (h.tenure_isHost.trans hs.symm) h.tenure_isRetire h.stepFits
    (fun hi => ⟨(h.quiet hi).2.2.2.1, hb hi⟩) h.no_fetch hw

/-- A change of the tenure that serves the host and the queue as before. -/
theorem PartSound.withPort {s : State} (h : PartSound s) {p : Port}
    (hh : p.tenure.any Tenure.isHost = s.host.access.served) (hr : p.tenure.any Tenure.isRetire = s.queue.any Entry.isWriting)
    (hst : StepFits s.mover p.tenure) (hi : s.ctl.istate.passThrough = true → p.tenure = none)
    (hf : s.ctl.istate.afterDrainCut = true → p.tenure.any Tenure.isLineFetch = false) : PartSound (s.withPort p) :=
  h.withPortHost (x := s.host) hh hr hst (fun hp => ⟨hi hp, (h.quiet hp).2.2.2.2.2⟩) hf h.not_isWait

/-- The end of a wait keeps the part sound (R24). -/
theorem PartSound.noteWait {s : State} (h : PartSound s) (left retired : Bool) : PartSound (noteWait left retired s) := by
  unfold Machine.noteWait
  split
  · rename_i w why due ha
    refine h.withHost (by rw [ha]; rfl) (fun hi => ?_) (fun hc ho => ?_)
    · exact absurd (hi.symm.trans (h.not_passThrough_of_busy (by rw [ha]; rfl))) (by decide)
    · have := h.not_isWait hc ho
      rw [ha] at this
      cases this
  all_goals exact h

/-! ### The queue -/

/-- Entries that stand where the rules of the queue put them, by block, generation and state only. -/
def EntryPlaced (s : State) (e : Entry) : Prop :=
  (e.gen = .direct ↔ blockGeneration s e.block = .direct) ∧ (e.state = .writing → blocked s.mover e = false) ∧
    (e.gen = .pending → s.ctl.mode.sharing = .commit)

/-- Entries that differ in their bytes only stand in the same place. -/
theorem EntryPlaced.of_same {s : State} {e y : Entry} (h : EntryPlaced s y) (hb : e.block = y.block) (hg : e.gen = y.gen)
    (hst : e.state = y.state) : EntryPlaced s e := by
  obtain ⟨h1, h2, h3⟩ := h
  unfold EntryPlaced blocked
  rw [hb, hg, hst]
  exact ⟨h1, h2, h3⟩

/-- Every entry of `q` has the generation of one of `q'`. -/
def GensFrom (q q' : List Entry) : Prop := ∀ e ∈ q, ∃ y ∈ q', e.gen = y.gen

theorem GensFrom.nil {q q' : List Entry} (h : GensFrom q q') (hn : q' = []) : q = [] := by
  subst hn
  refine List.eq_nil_iff_forall_not_mem.2 fun e he => ?_
  obtain ⟨y, hy, _⟩ := h e he
  cases hy

theorem GensFrom.hasGen {q q' : List Entry} (h : GensFrom q q') {g : Generation} (hg : hasGen q' g = false) :
    hasGen q g = false := by
  simp only [Machine.hasGen, List.any_eq_false, beq_iff_eq] at hg ⊢
  intro e he hge
  obtain ⟨y, hy, hgy⟩ := h e he
  exact hg y hy (hgy ▸ hge)

/-- A change of the queue and of the tenure that brings no new generation into the queue. -/
theorem PartSound.withQueuePort {s : State} (h : PartSound s) {q : List Entry} {p : Port} (hq : QueueSound q)
    (he : ∀ e ∈ q, EntryPlaced s e) (hg : GensFrom q s.queue) (hh : p.tenure.any Tenure.isHost = s.host.access.served)
    (hr : p.tenure.any Tenure.isRetire = q.any Entry.isWriting) (hst : StepFits s.mover p.tenure)
    (hi : s.ctl.istate.passThrough = true → p.tenure = none)
    (hf : s.ctl.istate.afterDrainCut = true → p.tenure.any Tenure.isLineFetch = false) :
    PartSound ((s.withQueue q).withPort p) := by
  obtain ⟨_, _, _, hm, hreset, hquiet, hscan, hcut, hover, hshow⟩ := h
  refine ⟨hq, he, (portSound_iff _).2 ⟨hh, hr, hst⟩, hm, hreset, fun hi' => ?_, hscan, fun ha => ?_, fun ha ho => ?_,
    fun hs => hg.hasGen (hshow hs)⟩
  · obtain ⟨h1, h2, h3, _, h5, h6⟩ := hquiet hi'
    exact ⟨hg.nil h1, h2, h3, hi hi', h5, h6⟩
  · obtain ⟨h1, h2, h3⟩ := hcut ha
    refine ⟨fun e hmem => ?_, ?_, h3⟩
    · obtain ⟨y, hy, hge⟩ := hg e hmem
      exact hge ▸ h1 y hy
    · rw [fetchOutstanding, Bool.or_eq_false_iff] at h2 ⊢
      exact ⟨h2.1, hf ha⟩
  · obtain ⟨h1, h2⟩ := hover ha ho
    exact ⟨hg.nil h1, h2⟩

/-- A change of the queue in RUNNING or before the drain cut. -/
theorem PartSound.withQueue_running {s : State} (h : PartSound s) {q : List Entry} (hi : s.ctl.istate.passThrough = false)
    (hd : s.ctl.istate.afterDrainCut = false) (hq : QueueSound q) (he : ∀ e ∈ q, EntryPlaced s e)
    (hw : q.any Entry.isWriting = s.queue.any Entry.isWriting)
    (hr : s.scan.state = .showing ∨ (s.scan.state = .gap ∧ s.scan.sub = .leadIn) → hasGen q .retiring = false) :
    PartSound (s.withQueue q) := by
  obtain ⟨_, _, ⟨hport, hretire, hstep⟩, hm, hreset, hquiet, hscan, _, _, _⟩ := h
  refine ⟨hq, he, ⟨hport, hretire.trans hw.symm, hstep⟩, hm, hreset, fun hi' => ?_, hscan, fun ha => ?_, fun ha => ?_, hr⟩
  · exact absurd (hi.symm.trans hi') (by decide)
  · exact absurd (hd.symm.trans ha) (by decide)
  · exact absurd (hd.symm.trans ha) (by decide)

/-! ### The mover -/

/-- A change of the mover record that blocks no WRITING entry and leaves the step in progress its words. -/
theorem PartSound.withMover {s : State} (h : PartSound s) {m : Mover} (hm : MoverSound m)
    (hb : ∀ e ∈ s.queue, e.state = .writing → blocked s.mover e = false → blocked m e = false)
    (hp : StepFits m s.port.tenure)
    (hi : s.mover.active = false → s.ctl.istate ≠ .running → m.active = false) : PartSound (s.withMover m) := by
  obtain ⟨hq, he, hport, _, hreset, hquiet, hscan, hcut, hover, hshow⟩ := h
  obtain ⟨hhost, hretire, _⟩ := (portSound_iff s).1 hport
  refine ⟨hq, fun e hmem => ?_, (portSound_iff _).2 ⟨hhost, hretire, hp⟩, hm, hreset, fun hi' => ?_, hscan, hcut,
    fun ha ho => ?_, hshow⟩
  · obtain ⟨h1, h2, h3⟩ := he e hmem
    exact ⟨h1, fun hw => hb e hmem hw (h2 hw), h3⟩
  · obtain ⟨h1, h2, h3⟩ := hquiet hi'
    exact ⟨h1, hi h2 (fun hrun => by simp [hrun, IState.passThrough] at hi'), h3⟩
  · obtain ⟨h1, h2, h3⟩ := hover ha ho
    exact ⟨h1, hi h2 (fun hrun => by simp [hrun, IState.afterDrainCut] at ha), h3⟩

/-! ### The scan -/

/-- No RETIRING entry is left in LEAD_IN and in SHOW (R83). -/
theorem PartSound.no_retiring {s : State} (h : PartSound s)
    (hs : s.scan.state = .showing ∨ (s.scan.state = .gap ∧ s.scan.sub = .leadIn)) : hasGen s.queue .retiring = false := by
  obtain ⟨_, _, _, _, _, _, _, _, _, hshow⟩ := h
  exact hshow hs

/-- A change of the scan before the drain cut, in RUNNING or DRAINING. -/
theorem PartSound.withScan_running {s : State} (h : PartSound s) {x : Scan} (hi : s.ctl.istate.passThrough = false)
    (hd : s.ctl.istate.afterDrainCut = false) (hoff : x.state ≠ .off)
    (hr : x.state = .showing ∨ (x.state = .gap ∧ x.sub = .leadIn) → hasGen s.queue .retiring = false) :
    PartSound (s.withScan x) := by
  obtain ⟨hq, he, hport, hm, hreset, _, _, _, _, _⟩ := h
  exact ⟨hq, he, hport, hm, hreset, fun hi' => absurd (hi.symm.trans hi') (by decide), fun _ _ => hoff,
    fun ha => absurd (hd.symm.trans ha) (by decide), fun ha => absurd (hd.symm.trans ha) (by decide), hr⟩

/-- A change of the scan that keeps its state, its sub-phase and the fetch that is due. -/
theorem PartSound.withScan_same {s : State} (h : PartSound s) {x : Scan} (hs : x.state = s.scan.state)
    (hsub : x.sub = s.scan.sub) (hf : x.fetchDue = s.scan.fetchDue) : PartSound (s.withScan x) := by
  refine h.of_view ?_
  rw [view_withScan, hs, hsub, hf]
  rfl

/-! ### The interposer state -/

/-- A part with nothing in progress is sound in pass-through (R74, R76, R119). -/
theorem partSound_of_quiet {s : State} (hq : Quiet s) (hm : s.mover.done.toNat ≤ s.mover.length.toNat)
    (hi : s.ctl.istate.passThrough = true) (hr : s.pins.reset = true → s.ctl.istate = .passive) : PartSound s := by
  obtain ⟨hqueue, hidle, hoff, hport, hdue, hbusy⟩ := hq
  have hd : s.ctl.istate.afterDrainCut = false :=
    Bool.eq_false_iff.2 fun ha => absurd (hi.symm.trans (passThrough_of_afterDrainCut ha)) (by decide)
  have hno : ∀ {p : Prop}, s.ctl.istate.afterDrainCut = true → p := fun ha => absurd (hd.symm.trans ha) (by decide)
  refine ⟨?_, ?_, (portSound_iff s).2 ⟨?_, ?_, ?_⟩, ⟨hm, fun ha => absurd (hidle.symm.trans ha) (by decide)⟩, hr,
    fun _ => ⟨hqueue, hidle, hoff, hport, hdue, hbusy⟩, fun hi' => absurd (hi.symm.trans hi') (by decide), hno, hno, fun _ => ?_⟩
  · rw [hqueue]
    exact ⟨Nat.zero_le _, fun _ he => absurd he List.not_mem_nil, List.Pairwise.nil, Nat.zero_le _⟩
  · intro e he
    rw [hqueue] at he
    cases he
  · rw [hport, HostAccess.served_of_not_busy hbusy]
    rfl
  · rw [hport, hqueue]
    rfl
  · rw [hport]
    trivial
  · rw [hqueue]
    rfl

/-- A change of the interposer state that leaves the part sharing the memory, on the same side of the drain cut. -/
theorem PartSound.setIState {s : State} (h : PartSound s) {i : IState} (hs : s.ctl.istate.passThrough = false)
    (hi : i.passThrough = false) (hd : i.afterDrainCut = s.ctl.istate.afterDrainCut) : PartSound (setIState i s) := by
  have hr := h.reset_eq_false hs
  obtain ⟨hq, he, hport, hm, _, _, hscan, hcut, hover, hshow⟩ := h
  exact ⟨hq, he, hport, hm, fun hr' => absurd (hr.symm.trans hr') (by decide), fun hi' => absurd (hi.symm.trans hi') (by decide),
    fun _ ha => hscan hs (hd ▸ ha), fun ha => hcut (hd ▸ ha), fun ha => hover (hd ▸ ha), hshow⟩

/-! ### The arbiter (R63 to R66) -/

theorem setBuffer_state (x : Scan) (line : BitVec 8) (b : LineBuffer) : (setBuffer x line b).state = x.state := by
  unfold setBuffer; split <;> rfl
theorem setBuffer_sub (x : Scan) (line : BitVec 8) (b : LineBuffer) : (setBuffer x line b).sub = x.sub := by
  unfold setBuffer; split <;> rfl
theorem setBuffer_fetchDue (x : Scan) (line : BitVec 8) (b : LineBuffer) : (setBuffer x line b).fetchDue = x.fetchDue := by
  unfold setBuffer; split <;> rfl

theorem view_grantFetch (line : BitVec 8) (s : State) :
    view (grantFetch line s) = { view s with tenure := some (.lineFetch line none), due := none } := by
  unfold grantFetch
  rw [view_withScan, view_withPort, setBuffer_state, setBuffer_sub, setBuffer_fetchDue]
  rfl

/-- A due fetch that is no longer due: nothing else looks at it but the drain, after whose cut none is due. -/
theorem PartSound.clearDue {s : State} (h : PartSound s) : PartSound (s.withScan { s.scan with fetchDue := none }) := by
  obtain ⟨hq, he, hport, hm, hreset, hquiet, hscan, hcut, hover, hshow⟩ := h
  refine ⟨hq, he, hport, hm, hreset, fun hi => ?_, hscan, fun ha => ?_, hover, hshow⟩
  · obtain ⟨h1, h2, h3, h4, _, h6⟩ := hquiet hi
    exact ⟨h1, h2, h3, h4, rfl, h6⟩
  · obtain ⟨h1, h2, h3⟩ := hcut ha
    refine ⟨h1, ?_, h3⟩
    rw [fetchOutstanding, Bool.or_eq_false_iff] at h2 ⊢
    exact ⟨rfl, h2.2⟩

/-- With no tenure in progress no access is served and no entry is WRITING. -/
theorem PartSound.idle_port {s : State} (h : PartSound s) (ht : s.port.tenure = none) :
    s.host.access.served = false ∧ s.queue.any Entry.isWriting = false := by
  have h1 := h.tenure_isHost
  have h2 := h.tenure_isRetire
  rw [ht] at h1 h2
  exact ⟨h1.symm, h2.symm⟩

/-- The host's claim is granted at an idle port (R65). -/
theorem PartSound.grantHost {s : State} (h : PartSound s) (ht : s.port.tenure = none) : PartSound (grantHost s) := by
  by_cases hc : s.host.access.claims = true
  · obtain ⟨t, hhost, hg⟩ := grantHost_spec hc
    have hb : s.host.access.busy = true := by
      cases ha : s.host.access with
      | readClaim _ _ | writeClaim _ => rfl
      | none | readHold _ | interventionHold _ | writeHold _ | writeWait _ _ _ | inTenure | handedOver =>
        rw [ha] at hc
        cases hc
    have hi := h.not_passThrough_of_busy hb
    have hkind : t.isRetire = false ∧ t.isLineFetch = false ∧ t.isMoverStep = false := by
      cases t with
      | hostRead _ _ _ _ | hostWrite _ => exact ⟨rfl, rfl, rfl⟩
      | retire | lineFetch _ _ | fillStep _ | copyStep _ => cases hhost
    rw [hg]
    refine h.withPortHost hhost ?_ (stepFits_of_no_step _ hkind.2.2) (fun hp => absurd (hi.symm.trans hp) (by decide))
      (fun _ => hkind.2.1) (fun _ _ => rfl)
    rw [(h.idle_port ht).2]
    exact hkind.1
  · rw [grantHost_of_no_claim (Bool.eq_false_iff.2 hc)]
    exact h

/-- After a retire grant every entry is one of the queue, or the eligible one that is now WRITING (R37). -/
theorem of_mem_startRetire {m : Mover} {q : List Entry} {e : Entry} (he : e ∈ startRetire m q) :
    e ∈ q ∨ ∃ y ∈ q, eligible m y = true ∧ e = { y with state := .writing } := by
  induction q with
  | nil => cases he
  | cons y q ih =>
    unfold startRetire at he
    split at he
    · rename_i hel
      rcases List.mem_cons.1 he with rfl | he
      · exact .inr ⟨y, List.mem_cons_self, hel, rfl⟩
      · exact .inl (List.mem_cons_of_mem _ he)
    · rcases List.mem_cons.1 he with rfl | he
      · exact .inl List.mem_cons_self
      · rcases ih he with hin | ⟨z, hz, hzel⟩
        · exact .inl (List.mem_cons_of_mem _ hin)
        · exact .inr ⟨z, List.mem_cons_of_mem _ hz, hzel⟩

/-- A retire tenure is granted to an entry that is not blocked (R36, R37). -/
theorem PartSound.grantRetire {s : State} (h : PartSound s) (ht : s.port.tenure = none)
    (hc : queueClaims s.mover s.queue = true) : PartSound (grantRetire s) := by
  have hany : s.queue.any (eligible s.mover) = true := by
    rw [queueClaims, Bool.and_eq_true] at hc
    exact hc.1
  have hi : s.ctl.istate.passThrough = false := h.not_passThrough fun ⟨hn, _⟩ => by simp [hn] at hany
  have hw : (startRetire s.mover s.queue).any Entry.isWriting = true := startRetire_writing hany
  refine h.withQueuePort (h.1.startRetire hc) (fun e hmem => ?_) (fun e hmem => ?_) ?_ ?_ trivial
    (fun hp => absurd (hi.symm.trans hp) (by decide)) (fun _ => rfl)
  · rcases of_mem_startRetire hmem with hin | ⟨y, hy, hel, rfl⟩
    · exact h.2.1 e hin
    · obtain ⟨h1, _, h3⟩ := h.2.1 y hy
      exact ⟨h1, fun _ => (eligible_iff.1 hel).2.2, h3⟩
  · rcases of_mem_startRetire hmem with hin | ⟨y, hy, _, rfl⟩
    · exact ⟨e, hin, rfl⟩
    · exact ⟨y, hy, rfl⟩
  · rw [(h.idle_port ht).1]
    rfl
  · rw [hw]
    rfl

/-- A granted step has words to write, at most 8 for a FILL and 4 for a COPY (R109, R110). -/
theorem stepFits_stepTenure {m : Mover} (ha : m.active = true) (hr : 0 < m.remaining) : StepFits m (some (stepTenure m)) := by
  unfold stepTenure
  split
  · rename_i hk
    exact ⟨ha, hk, by omega, by omega, by omega⟩
  · rename_i hk
    exact ⟨ha, hk, by omega, by omega, by omega⟩

theorem PartSound.grantStep {s : State} (h : PartSound s) (ht : s.port.tenure = none) (hc : moverClaims s = true) :
    PartSound (grantStep s) := by
  simp only [moverClaims, Bool.and_eq_true, decide_eq_true_eq] at hc
  obtain ⟨⟨hactive, hrem⟩, _⟩ := hc
  have hi : s.ctl.istate.passThrough = false := h.not_passThrough fun ⟨_, hn, _⟩ => by simp [hn] at hactive
  have hkind : (stepTenure s.mover).isHost = false ∧ (stepTenure s.mover).isRetire = false ∧
      (stepTenure s.mover).isLineFetch = false := by
    unfold stepTenure; split <;> exact ⟨rfl, rfl, rfl⟩
  obtain ⟨hserved, hwriting⟩ := h.idle_port ht
  exact h.withPort (hkind.1.trans hserved.symm) (hkind.2.1.trans hwriting.symm) (stepFits_stepTenure hactive hrem)
    (fun hp => absurd (hi.symm.trans hp) (by decide)) (fun _ => hkind.2.2)

theorem PartSound.grantFetch {s : State} (h : PartSound s) {line : BitVec 8} (ht : s.port.tenure = none)
    (hd : s.scan.fetchDue = some line) : PartSound (grantFetch line s) := by
  have hi : s.ctl.istate.passThrough = false := h.not_passThrough fun ⟨_, _, _, _, hn, _⟩ => by simp [hn] at hd
  have ha := h.not_afterDrainCut_of_fetch (by simp [fetchOutstanding, hd])
  obtain ⟨hserved, hwriting⟩ := h.idle_port ht
  have hgrant : PartSound ((s.withScan { s.scan with fetchDue := none }).withPort ⟨some (.lineFetch line none), .hostNext⟩) :=
    h.clearDue.withPort hserved.symm hwriting.symm trivial (fun hp => absurd (hi.symm.trans hp) (by decide))
      (fun ha' => absurd (ha.symm.trans ha') (by decide))
  exact hgrant.of_view (view_grantFetch line s)

/-- The arbiter keeps the part sound. -/
theorem PartSound.settle {s : State} (h : PartSound s) : PartSound (settle s) := by
  rcases settle_cases s with hs | ⟨_, ht, ⟨line, hd, hs⟩ | ⟨_, _, hs⟩ | ⟨_, hc, hs⟩ | ⟨_, hc, hs⟩⟩ <;> rw [hs]
  · exact h
  · exact h.grantFetch ht hd
  · exact h.grantHost ht
  · exact h.grantRetire ht hc
  · exact h.grantStep ht hc

/-! ### The ends of tenures -/

/-- A tenure that serves neither host nor queue ends. -/
theorem PartSound.endTenure {s : State} (h : PartSound s) {t : Tenure} (ht : s.port.tenure = some t)
    (hh : t.isHost = false) (hr : t.isRetire = false) : PartSound (endTenure s) := by
  have h1 := h.tenure_isHost
  have h2 := h.tenure_isRetire
  rw [ht] at h1 h2
  exact h.withPort (hh.symm.trans h1) (hr.symm.trans h2) trivial (fun _ => rfl) (fun _ => rfl)

/-- A host tenure ends and its access is complete (R50). -/
theorem PartSound.endHostTenure {s : State} (h : PartSound s) {t : Tenure} (ht : s.port.tenure = some t)
    (hh : t.isHost = true) : PartSound (Machine.endTenure (releaseHost s)) := by
  have h2 := h.tenure_isRetire
  rw [ht] at h2
  have hr : t.isRetire = false := by
    cases t with
    | hostRead _ _ _ _ | hostWrite _ => rfl
    | retire | lineFetch _ _ | fillStep _ | copyStep _ => cases hh
  exact h.withPortHost (p := { s.port with tenure := none }) (x := { s.host with access := .none }) rfl (hr.symm.trans h2)
    trivial (fun _ => ⟨rfl, rfl⟩) (fun _ => rfl) (fun _ _ => rfl)

/-- A retire tenure ends and its entry leaves (R40). -/
theorem PartSound.endRetireTenure {s : State} (h : PartSound s) (ht : s.port.tenure = some .retire) :
    PartSound (Machine.endTenure (s.withQueue (removeWriting s.queue))) := by
  have h1 := h.tenure_isHost
  rw [ht] at h1
  have hsub : ∀ e ∈ removeWriting s.queue, e ∈ s.queue := fun e he => (List.mem_filter.1 he).1
  refine h.withQueuePort h.1.removeWriting (fun e he => h.2.1 e (hsub e he)) (fun e he => ⟨e, hsub e he, rfl⟩) h1 ?_ trivial
    (fun _ => rfl) (fun _ => rfl)
  rw [removeWriting_held]
  rfl

/-- The end of a wait and the end of a tenure do not touch each other. -/
theorem noteWait_endTenure (left retired : Bool) (s : State) :
    noteWait left retired (Machine.endTenure s) = Machine.endTenure (noteWait left retired s) := by
  unfold noteWait
  have ha : (Machine.endTenure s).host = s.host := rfl
  rw [ha]
  split <;> rfl

theorem raiseIf_endTenure (c : Bool) (e : Event) (s : State) :
    raiseIf c e (Machine.endTenure s) = Machine.endTenure (raiseIf c e s) := by cases c <;> rfl

end Sys2Proof.Machine
end

section
/-! The part invariant under the operations of the queue, the mover and the controller: each keeps `PartSound`. -/

namespace Sys2Proof.Machine

/-! ### Merging, posting and committing (R21, R22, R28, R31) -/

theorem mem_mergeWrite {q : List Entry} {w : HostWrite} {g : Generation} {e : Entry} (he : e ∈ mergeWrite q w g) :
    ∃ y ∈ q, e.block = y.block ∧ e.gen = y.gen ∧ e.state = y.state := by
  obtain ⟨y, hy, rfl⟩ := List.mem_map.1 he
  refine ⟨y, hy, ?_⟩
  split <;> exact ⟨rfl, rfl, rfl⟩

theorem any_isWriting_map {f : Entry → Entry} (hf : ∀ e, (f e).state = e.state) (q : List Entry) :
    (q.map f).any Entry.isWriting = q.any Entry.isWriting := by
  rw [List.any_map]
  congr 1
  funext e
  simp only [Function.comp, Entry.isWriting, hf]

theorem any_isWriting_mergeWrite (q : List Entry) (w : HostWrite) (g : Generation) :
    (mergeWrite q w g).any Entry.isWriting = q.any Entry.isWriting :=
  any_isWriting_map (fun _ => by split <;> rfl) q

theorem any_isWriting_relabel (g g' : Generation) (q : List Entry) :
    (relabel g g' q).any Entry.isWriting = q.any Entry.isWriting :=
  any_isWriting_map (fun _ => by split <;> rfl) q

/-- No folded entry is WRITING: it is OPEN (R17, R31). -/
theorem any_isWriting_foldOpen {q : List Entry} (h : ∀ e ∈ q, e.sound) :
    (foldOpen q).any Entry.isWriting = q.any Entry.isWriting := by
  unfold foldOpen
  rw [any_isWriting_map (fun e => (foldInto_frame q e).2.2), Bool.eq_iff_iff, List.any_eq_true, List.any_eq_true]
  constructor
  · rintro ⟨e, he, hw⟩
    exact ⟨e, (List.mem_filter.1 he).1, hw⟩
  · rintro ⟨e, he, hw⟩
    refine ⟨e, List.mem_filter.2 ⟨he, ?_⟩, hw⟩
    have hgen := (h e he).2.2 (by simpa [Entry.isWriting] using hw)
    rcases hgen with hg | hg <;> simp [folds, hg]

theorem any_isWriting_commitQueue {q : List Entry} (h : QueueSound q) :
    (commitQueue q).any Entry.isWriting = q.any Entry.isWriting :=
  (any_isWriting_relabel _ _ _).trans (any_isWriting_foldOpen h.2.1)

theorem any_isWriting_drainShift {q : List Entry} (h : QueueSound q) :
    (drainShift q).any Entry.isWriting = q.any Entry.isWriting :=
  (any_isWriting_relabel _ _ _).trans ((any_isWriting_relabel _ _ _).trans (any_isWriting_foldOpen h.2.1))

/-- A merge keeps the part sound (R22). -/
theorem PartSound.mergeWrite {s : State} (h : PartSound s) (w : HostWrite) (g : Generation) :
    PartSound (s.withQueue (mergeWrite s.queue w g)) := by
  refine h.withQueuePort (p := s.port) (h.1.mergeWrite w g) (fun e he => ?_) (fun e he => ?_) h.tenure_isHost
    (h.tenure_isRetire.trans (any_isWriting_mergeWrite _ _ _).symm) h.stepFits (fun hi => (h.quiet hi).2.2.2.1) h.no_fetch
  · obtain ⟨y, hy, hb, hg, hst⟩ := mem_mergeWrite he
    exact EntryPlaced.of_same (s := s) (h.2.1 y hy) hb hg hst
  · obtain ⟨y, hy, _, hg, _⟩ := mem_mergeWrite he
    exact ⟨y, hy, hg⟩

theorem writeGeneration_cases (s : State) (a : WordAddr) : writeGeneration s a = .opn ∨ writeGeneration s a = .direct := by
  unfold writeGeneration
  split
  · exact .inl rfl
  · exact .inr rfl

/-- A write that finds no entry to merge into stands behind every entry of its block (R20, R21). -/
theorem PartSound.inAgeOrder_newEntry {s : State} (h : PartSound s) {w : HostWrite}
    (hn : findEntry s.queue (blockOf w.addr) (writeGeneration s w.addr) = none) :
    ∀ e ∈ s.queue, inAgeOrder e (newEntry w (writeGeneration s w.addr)) := by
  intro e he hb
  replace hb : e.block = blockOf w.addr := hb
  have hnot : e.gen ≠ writeGeneration s w.addr := fun hg => findEntry_none.1 hn e he ⟨hb, hg⟩
  have hplaced := (h.2.1 e he).1
  rw [hb, ← writeGeneration_eq_block] at hplaced
  show (e.gen = .retiring ∧ (writeGeneration s w.addr = .pending ∨ writeGeneration s w.addr = .opn)) ∨
    (e.gen = .pending ∧ writeGeneration s w.addr = .opn)
  rcases writeGeneration_cases s w.addr with hg | hg <;> rw [hg] at hnot hplaced ⊢
  · cases hge : e.gen with
    | direct => exact absurd (hplaced.1 hge) (by decide)
    | opn => exact absurd hge hnot
    | pending => exact .inr ⟨rfl, rfl⟩
    | retiring => exact .inl ⟨rfl, .inr rfl⟩
  · exact absurd (hplaced.2 rfl) hnot

/-- Posting keeps the part sound where the write found neither an entry nor a full queue (R21). -/
theorem PartSound.postWrite {s : State} (h : PartSound s) {w : HostWrite} (hi : s.ctl.istate.passThrough = false)
    (hd : s.ctl.istate.afterDrainCut = false) (hl : w.lanes.empty = false) (hf : s.queue.length < 64)
    (hn : findEntry s.queue (blockOf w.addr) (writeGeneration s w.addr) = none) :
    PartSound (s.withQueue (postWrite s.queue w (writeGeneration s w.addr))) := by
  refine h.withQueue_running hi hd (h.1.postWrite w _ hl hf (h.inAgeOrder_newEntry hn)) (fun e he => ?_) ?_ (fun hs => ?_)
  · rcases List.mem_append.1 he with he | he
    · exact h.2.1 e he
    · obtain rfl := List.mem_singleton.1 he
      refine ⟨?_, fun hw => ?_, fun hp => ?_⟩
      · show writeGeneration s w.addr = .direct ↔ blockGeneration s (blockOf w.addr) = .direct
        rw [writeGeneration_eq_block]
      · cases hw
      · have hp' : writeGeneration s w.addr = .pending := hp
        rcases writeGeneration_cases s w.addr with hg | hg <;> rw [hg] at hp' <;> cases hp'
  · rw [Machine.postWrite, List.any_append]
    exact Bool.or_false _
  · have hr := h.no_retiring hs
    rw [hasGen] at hr ⊢
    rw [Machine.postWrite, List.any_append, hr]
    rcases writeGeneration_cases s w.addr with hg | hg <;> rw [hg] <;> rfl

/-- A commit keeps the part sound in COMMIT mode before the drain cut (R28, R31). -/
theorem PartSound.commitQueue {s : State} (h : PartSound s) (hi : s.ctl.istate.passThrough = false)
    (hd : s.ctl.istate.afterDrainCut = false) (hm : s.ctl.mode.sharing = .commit) :
    PartSound (s.withQueue (commitQueue s.queue)) := by
  refine h.withQueue_running hi hd h.1.commitQueue (fun e he => ?_) (any_isWriting_commitQueue h.1) (fun hs => ?_)
  · obtain ⟨y, hy, hb, hst, hg⟩ := of_mem_commitQueue he
    obtain ⟨h1, h2, _⟩ := h.2.1 y hy
    have hdirect : e.gen = .direct ↔ y.gen = .direct := by
      rw [hg, committedGen]
      split
      · rename_i ho
        rw [ho]
        decide
      · rfl
    refine ⟨?_, fun hw => ?_, fun _ => hm⟩
    · rw [hb]
      exact hdirect.trans h1
    · unfold blocked
      rw [hb]
      exact h2 (hst ▸ hw)
  · have hr := h.no_retiring hs
    simp only [hasGen, List.any_eq_false, beq_iff_eq] at hr ⊢
    intro e he hge
    obtain ⟨y, hy, _, _, hg⟩ := of_mem_commitQueue he
    rw [hg, committedGen] at hge
    split at hge
    · cases hge
    · exact hr y hy hge

/-- A spill (R28). -/
theorem PartSound.spill {s : State} (h : PartSound s) (hi : s.ctl.istate.passThrough = false)
    (hd : s.ctl.istate.afterDrainCut = false) (hm : s.ctl.mode.sharing = .commit) : PartSound (spill s) :=
  (h.commitQueue hi hd hm).of_view (view_raise _ _)

/-! ### The shifts at a cut (R34, R35) -/

/-- Where no entry is RETIRING, none of another generation is taken for one. -/
theorem gen_ne_retiring {q : List Entry} (h : hasGen q .retiring = false) {e : Entry} (he : e ∈ q) : e.gen ≠ .retiring := by
  simp only [hasGen, List.any_eq_false, beq_iff_eq] at h
  exact h e he

/-- Relabelling a generation other than DIRECT to RETIRING keeps the part sound in the gap where it keeps the queue sound. -/
theorem PartSound.toRetiring {s : State} (h : PartSound s) {g : Generation} (hi : s.ctl.istate.passThrough = false)
    (hd : s.ctl.istate.afterDrainCut = false) (hscan : ¬(s.scan.state = .showing ∨ (s.scan.state = .gap ∧ s.scan.sub = .leadIn)))
    (hg : g ≠ .direct) (hq : QueueSound (relabel g .retiring s.queue)) :
    PartSound (s.withQueue (relabel g .retiring s.queue)) := by
  refine h.withQueue_running hi hd hq (fun e he => ?_) (any_isWriting_relabel _ _ _) (fun hs => absurd hs hscan)
  obtain ⟨y, hy, rfl⟩ := List.mem_map.1 he
  obtain ⟨h1, h2, h3⟩ := h.2.1 y hy
  split
  · rename_i hgy
    have hnd : blockGeneration s y.block ≠ .direct := fun hb => hg (hgy ▸ h1.2 hb)
    exact ⟨⟨fun hc => (Generation.noConfusion hc : False).elim, fun hc => absurd hc hnd⟩, h2, fun hc => (Generation.noConfusion hc : False).elim⟩
  · exact ⟨h1, h2, h3⟩

/-- The shift for the mode in force, where no entry is RETIRING yet (R33, R34). -/
theorem PartSound.cutShift {s : State} (h : PartSound s) (hi : s.ctl.istate.passThrough = false)
    (hd : s.ctl.istate.afterDrainCut = false) (hscan : ¬(s.scan.state = .showing ∨ (s.scan.state = .gap ∧ s.scan.sub = .leadIn)))
    (hr : hasGen s.queue .retiring = false) : PartSound (s.withQueue (cutShift s.ctl.mode.sharing s.queue)) := by
  cases hm : s.ctl.mode.sharing with
  | direct => exact h
  | frame =>
    refine h.toRetiring hi hd hscan (by decide) (h.1.toRetiring .opn fun x hx y _ hy hxy hb => ?_)
    rcases hxy hb with ⟨hx', _⟩ | ⟨hx', _⟩
    · exact gen_ne_retiring hr hx hx'
    · have := (h.2.1 x hx).2.2 hx'
      rw [hm] at this
      cases this
  | commit =>
    refine h.toRetiring hi hd hscan (by decide) (h.1.toRetiring .pending fun x hx y _ hy hxy hb => ?_)
    rcases hxy hb with ⟨hx', _⟩ | ⟨_, hy'⟩
    · exact gen_ne_retiring hr hx hx'
    · rw [hy] at hy'
      cases hy'

/-- The generation an entry has after the drain shift (R35). -/
def drainedGen (g : Generation) : Generation := if g = .opn ∨ g = .pending then .retiring else g

/-- The drain shift folds, and then relabels (R35). -/
theorem drainShift_eq (q : List Entry) : drainShift q = (foldOpen q).map fun e => { e with gen := drainedGen e.gen } := by
  unfold drainShift relabel
  rw [List.map_map]
  refine List.map_congr_left fun e _ => ?_
  obtain ⟨_, _, g, _⟩ := e
  cases g <;> rfl

/-- Every entry after folding comes from one of the queue, with its block, generation and state (R31). -/
theorem of_mem_foldOpen {q : List Entry} {e : Entry} (h : e ∈ foldOpen q) :
    ∃ y ∈ q, e.block = y.block ∧ e.gen = y.gen ∧ e.state = y.state := by
  obtain ⟨y, hy, rfl⟩ := List.mem_map.1 h
  exact ⟨y, (List.mem_filter.1 hy).1, foldInto_frame q y⟩

/-- Every entry after the drain shift comes from one of the queue, with its block and state. -/
theorem of_mem_drainShift {q : List Entry} {e : Entry} (h : e ∈ drainShift q) :
    ∃ y ∈ q, e.block = y.block ∧ e.state = y.state ∧ e.gen = drainedGen y.gen := by
  rw [drainShift_eq] at h
  obtain ⟨x, hx, rfl⟩ := List.mem_map.1 h
  obtain ⟨y, hy, hb, hg, hst⟩ := of_mem_foldOpen hx
  exact ⟨y, hy, hb, hst, congrArg drainedGen hg⟩

/-- The drain shift keeps the queue sound where no entry is RETIRING yet (R33, R35). -/
theorem QueueSound.drainShift {q : List Entry} (h : QueueSound q) (hr : hasGen q .retiring = false) :
    QueueSound (drainShift q) := by
  have hfold : ∀ x ∈ Machine.foldOpen q, x.gen ≠ .retiring := by
    intro x hx
    obtain ⟨y, hy, _, hg, _⟩ := of_mem_foldOpen hx
    rw [hg]
    exact gen_ne_retiring hr hy
  have hopen : QueueSound (Machine.relabel .opn .retiring (Machine.foldOpen q)) := by
    refine h.foldOpen.toRetiring .opn fun x hx y hy hyg hxy hb => ?_
    rcases hxy hb with ⟨hx', _⟩ | ⟨hx', _⟩
    · exact hfold x hx hx'
    · exact foldOpen_apart hy hx hyg hx' hb.symm
  refine hopen.toRetiring .pending fun x hx y hy hyg hxy hb => ?_
  obtain ⟨x', hx', rfl⟩ := List.mem_map.1 hx
  obtain ⟨y', hy', rfl⟩ := List.mem_map.1 hy
  have hyg' : y'.gen = .pending := by
    split at hyg
    · cases hyg
    · exact hyg
  rw [if_neg (by rw [hyg']; decide : ¬ y'.gen = .opn)] at hb hxy
  by_cases hxo : x'.gen = .opn
  · rw [if_pos hxo] at hb
    exact foldOpen_apart hx' hy' hxo hyg' hb
  · rw [if_neg hxo] at hb hxy
    rcases hxy hb with ⟨hx1, _⟩ | ⟨_, hy1⟩
    · exact hfold x' hx' hx1
    · rw [hyg'] at hy1
      cases hy1

/-- The drain cut: every entry that waited for a cut is RETIRING, and the gap is in EXTEND (R35, R87). -/
theorem PartSound.drainCut {s : State} (h : PartSound s) {target : DrainTarget} (hi : s.ctl.istate = .draining target false)
    (hg : s.scan.state = .gap ∧ s.scan.sub = .extend) (hf : fetchOutstanding s = false)
    (hr : hasGen s.queue .retiring = false) :
    PartSound (Machine.setIState (.draining target true) (s.withQueue (Machine.drainShift s.queue))) := by
  have hp : s.ctl.istate.passThrough = false := by rw [hi]; rfl
  have hreset := h.reset_eq_false hp
  have hentry : ∀ e ∈ Machine.drainShift s.queue, EntryPlaced s e ∧ (e.gen = .direct ∨ e.gen = .retiring) := by
    intro e he
    obtain ⟨y, hy, hb, hst, hgen⟩ := of_mem_drainShift he
    obtain ⟨h1, h2, _⟩ := h.2.1 y hy
    have hw : e.state = .writing → blocked s.mover e = false := by
      unfold blocked
      rw [hb, hst]
      exact h2
    have hdirect : e.gen = .direct ↔ y.gen = .direct := by rw [hgen]; cases y.gen <;> decide
    have hlast : e.gen = .direct ∨ e.gen = .retiring := by rw [hgen]; cases y.gen <;> decide
    refine ⟨⟨?_, hw, fun hc => ?_⟩, hlast⟩
    · rw [hb]
      exact hdirect.trans h1
    · rw [hc] at hlast
      rcases hlast with hc' | hc' <;> cases hc'
  have hw := any_isWriting_drainShift h.1
  obtain ⟨hgap, hsub⟩ := hg
  refine ⟨h.1.drainShift hr, fun e he => (hentry e he).1, (portSound_iff _).2 ⟨h.tenure_isHost, h.tenure_isRetire.trans hw.symm,
    h.stepFits⟩, h.2.2.2.1, fun hr' => absurd (hreset.symm.trans hr') (by decide), fun hc => ?_, fun _ hc => ?_,
    fun _ => ⟨fun e he => (hentry e he).2, hf, .inr ⟨hgap, hsub⟩⟩, fun _ ho => ?_, fun hs => ?_⟩
  · cases hc
  · cases hc
  · exact absurd (hgap.symm.trans ho) (by decide)
  · rcases hs with hs | ⟨_, hs⟩
    · exact absurd (hgap.symm.trans hs) (by decide)
    · exact absurd (hsub.symm.trans hs) (by decide)

/-! ### The mover record (R103, R108, R111, R114, R115) -/

/-- A range inside another meets no more blocks. -/
theorem WordRange.meets_mono {r r' : WordRange} (hlo : r.lo ≤ r'.lo) (hhi : r'.hi ≤ r.hi) {b : BlockNo}
    (h : r.meets b = false) : r'.meets b = false := by
  simp only [WordRange.meets, Bool.and_eq_false_iff, decide_eq_false_iff_not] at h ⊢
  omega

theorem moverMeets_of_idle {m : Mover} (h : m.active = false) (b : BlockNo) : moverMeets m b = false := by
  simp [moverMeets, destRange, srcRange, h, WordRange.empty, WordRange.meets]

/-- The mover record after `k` more words. -/
def Mover.advance (m : Mover) (k : Nat) : Mover := { m with done := m.done + BitVec.ofNat 16 k }

theorem Mover.advance_done {m : Mover} {k : Nat} (h : m.done.toNat + k ≤ m.length.toNat) :
    (m.advance k).done.toNat = m.done.toNat + k := by
  have hlt := m.length.isLt
  show (m.done + BitVec.ofNat 16 k).toNat = _
  rw [BitVec.toNat_add, BitVec.toNat_ofNat]
  omega

theorem unfinished_advance {m : Mover} {k : Nat} (h : m.done.toNat + k ≤ m.length.toNat) (first : WordAddr) :
    (unfinished m first).lo ≤ (unfinished (m.advance k) first).lo ∧
      (unfinished (m.advance k) first).hi ≤ (unfinished m first).hi := by
  have hd := Mover.advance_done h
  have hdir : (m.advance k).dir = m.dir := rfl
  have hlen : (m.advance k).length = m.length := rfl
  unfold unfinished
  rw [hdir, hd, hlen]
  cases m.dir
  · exact ⟨by dsimp only; omega, Nat.le_refl _⟩
  · exact ⟨Nat.le_refl _, by dsimp only; omega⟩

/-- A step leaves fewer words unfinished, so it blocks no more entries (R36, R108). -/
theorem moverMeets_advance {m : Mover} {k : Nat} (h : m.done.toNat + k ≤ m.length.toNat) {b : BlockNo}
    (hb : moverMeets m b = false) : moverMeets (m.advance k) b = false := by
  have hm : ∀ first, (unfinished m first).meets b = false → (unfinished (m.advance k) first).meets b = false := fun first =>
    WordRange.meets_mono (unfinished_advance h first).1 (unfinished_advance h first).2
  have hactive : (m.advance k).active = m.active := rfl
  have hkind : (m.advance k).kind = m.kind := rfl
  unfold moverMeets destRange srcRange at hb ⊢
  rw [Bool.or_eq_false_iff] at hb ⊢
  rw [hactive, hkind]
  refine ⟨?_, ?_⟩
  · split
    · rename_i ha
      rw [if_pos ha] at hb
      exact hm _ hb.1
    · rfl
  · split
    · rename_i ha
      rw [if_pos ha] at hb
      exact hm _ hb.2
    · rfl

/-- A stopped mover is sound (R114, R115). -/
theorem moverSound_of_idle {m : Mover} (h : m.done.toNat ≤ m.length.toNat) (hi : m.active = false) : MoverSound m :=
  ⟨h, fun ha => absurd (hi.symm.trans ha) (by decide)⟩

/-- The mover becomes IDLE between two steps (R114, R115). -/
theorem PartSound.moverIdle {s : State} (h : PartSound s) {m : Mover} (hm : m.done.toNat ≤ m.length.toNat)
    (hi : m.active = false) (ht : s.port.tenure.any Tenure.isMoverStep = false) : PartSound (s.withMover m) :=
  h.withMover (moverSound_of_idle hm hi) (fun e _ _ _ => moverMeets_of_idle hi e.block) (stepFits_of_no_step m ht)
    (fun _ _ => hi)

/-- The end of the operation (R114, R115). -/
theorem PartSound.moverEnds {s : State} (h : PartSound s) (e : Event) (ht : s.port.tenure.any Tenure.isMoverStep = false) :
    PartSound (moverEnds e s) :=
  PartSound.noteWait ((h.moverIdle (m := s.mover.idle) h.2.2.2.1.1 rfl ht).of_view (view_raise _ _)) false false

/-- The end of a step of `k` words, after its tenure (R111). -/
theorem PartSound.stepEnded {s : State} (h : PartSound s) {k : Nat} (ht : s.port.tenure = none)
    (hk : s.mover.done.toNat + k ≤ s.mover.length.toNat) : PartSound (stepEnded k s) := by
  have hd := Mover.advance_done hk
  have hno : s.port.tenure.any Tenure.isMoverStep = false := by rw [ht]; rfl
  have hend : ∀ e, PartSound (Machine.moverEnds e (s.withMover (s.mover.advance k))) := fun e =>
    (PartSound.noteWait ((h.moverIdle (m := (s.mover.advance k).idle) (by
      show (s.mover.advance k).done.toNat ≤ _
      rw [hd]
      exact hk) rfl hno).of_view (view_raise e _)) false false)
  show PartSound (if (s.mover.advance k).length.toNat ≤ (s.mover.advance k).done.toNat then
      Machine.moverEnds .moveDone (s.withMover (s.mover.advance k))
    else if (s.mover.advance k).stopReq then Machine.moverEnds .moveAbort (s.withMover (s.mover.advance k))
    else Machine.noteWait false false (s.withMover (s.mover.advance k)))
  split
  · exact hend _
  · rename_i hlt
    split
    · exact hend _
    · refine PartSound.noteWait (h.withMover (m := s.mover.advance k) ⟨?_, fun ha => ⟨?_, ?_⟩⟩ (fun e _ _ hb => ?_) ?_ (fun hi _ => hi)) false false
      · rw [hd]
        exact hk
      · exact Nat.lt_of_not_le hlt
      · exact (h.2.2.2.1.2 ha).2
      · exact moverMeets_advance hk hb
      · rw [ht]
        trivial

/-- A stop request changes no range and no count (R115). -/
theorem PartSound.stopRequest {s : State} (h : PartSound s) : PartSound (s.withMover { s.mover with stopReq := true }) := by
  refine h.withMover h.2.2.2.1 (fun _ _ _ hb => hb) ?_ (fun hi _ => hi)
  have hst := h.stepFits
  revert hst
  rcases s.port.tenure with _ | t
  · exact id
  · cases t <;> exact id

theorem not_running_of_draining {i : IState} (h : i.isDraining = true) : i ≠ .running := by
  rintro rfl
  cases h

/-- MOVESTOP (R115). -/
theorem PartSound.movestop {s : State} (h : PartSound s) : PartSound (movestop s) := by
  unfold Machine.movestop
  split
  · exact h.of_view (view_recordCommand _ _ _)
  · split
    · exact h.of_view (view_recordCommand _ _ _)
    · split
      · exact h.stopRequest.of_view (view_recordCommand _ _ _)
      · rename_i hno
        exact (h.moverEnds .moveAbort (Bool.eq_false_iff.2 hno)).of_view (view_recordCommand _ _ _)

/-- The operand ranges of an accepted operation: within memory, not empty, and clear of every entry (R106, R107). -/
theorem clear_of_not_conflicts {q : List Entry} {first : WordAddr} {length : Word} (h : conflicts q (wordsFrom first length) = false)
    {e : Entry} (he : e ∈ q) : (wordsFrom first length).meets e.block = false := by
  unfold conflicts at h
  exact Bool.eq_false_iff.2 (List.any_eq_false.1 h e he)

theorem lt_of_rangeAllowed {cps : BitVec 3} {first : WordAddr} {length : Word} (h : rangeAllowed cps first length = true) :
    first.toNat + length.toNat ≤ 0x100000 := by
  rw [rangeAllowed, Bool.and_eq_true, decide_eq_true_eq] at h
  exact h.1

theorem toNat_pos {w : Word} (h : w ≠ 0) : 0 < w.toNat := by
  refine Nat.pos_of_ne_zero fun h0 => h (BitVec.eq_of_toNat_eq ?_)
  rw [h0]
  rfl

/-- A new operation starts in RUNNING with the mover IDLE, with ranges clear of every entry (R104, R105, R107). -/
theorem PartSound.moverStarts {s : State} (h : PartSound s) {m : Mover} (hi : s.ctl.istate = .running)
    (hidle : s.mover.active = false) (hm : MoverSound m) (hb : ∀ e ∈ s.queue, blocked m e = false) :
    PartSound (s.withMover m) := by
  refine h.withMover hm (fun e he _ _ => hb e he) ?_ (fun _ hn => absurd hi hn)
  have hst := h.stepFits
  revert hst
  rcases s.port.tenure with _ | t
  · exact id
  · cases t with
    | fillStep _ | copyStep _ => exact fun ⟨ha, _⟩ => absurd (hidle.symm.trans ha) (by decide)
    | hostRead _ _ _ _ | hostWrite _ | retire | lineFetch _ _ => exact id

/-- What the checks of FILL leave (R106, R107). -/
theorem of_fillRefusal_none {s : State} (h : fillRefusal s = none) :
    s.ctl.istate = .running ∧ s.mover.active = false ∧ s.ctl.args.get 2 ≠ 0 ∧
      rangeAllowed s.pins.cps (argAddr (s.ctl.args.get 0) (s.ctl.args.get 1)) (s.ctl.args.get 2) = true ∧
      conflicts s.queue (wordsFrom (argAddr (s.ctl.args.get 0) (s.ctl.args.get 1)) (s.ctl.args.get 2)) = false := by
  unfold fillRefusal at h
  dsimp only at h
  split at h
  · cases h
  · rename_i hi
    split at h
    · cases h
    · rename_i ha
      split at h
      · cases h
      · rename_i hbad
        split at h
        · cases h
        · rename_i hc
          simp only [not_or, Bool.not_eq_true', Bool.not_eq_false] at hbad
          exact ⟨Classical.not_not.1 hi, Bool.eq_false_iff.2 ha, hbad.2.1, hbad.2.2, Bool.eq_false_iff.2 hc⟩

/-- What the checks of COPY leave (R106, R107). -/
theorem of_copyRefusal_none {s : State} (h : copyRefusal s = none) :
    s.ctl.istate = .running ∧ s.mover.active = false ∧ s.ctl.args.get 4 ≠ 0 ∧
      rangeAllowed s.pins.cps (argAddr (s.ctl.args.get 2) (s.ctl.args.get 3)) (s.ctl.args.get 4) = true ∧
      rangeAllowed s.pins.cps (argAddr (s.ctl.args.get 0) (s.ctl.args.get 1)) (s.ctl.args.get 4) = true ∧
      conflicts s.queue (wordsFrom (argAddr (s.ctl.args.get 2) (s.ctl.args.get 3)) (s.ctl.args.get 4)) = false ∧
      conflicts s.queue (wordsFrom (argAddr (s.ctl.args.get 0) (s.ctl.args.get 1)) (s.ctl.args.get 4)) = false := by
  unfold copyRefusal at h
  dsimp only at h
  split at h
  · cases h
  · rename_i hi
    split at h
    · cases h
    · rename_i ha
      split at h
      · cases h
      · rename_i hbad
        split at h
        · cases h
        · rename_i hc
          simp only [not_or, Bool.not_eq_true', Bool.not_eq_false] at hbad
          rw [Bool.not_eq_true, Bool.or_eq_false_iff] at hc
          exact ⟨Classical.not_not.1 hi, Bool.eq_false_iff.2 ha, hbad.2.2.1, hbad.2.2.2.1, hbad.2.2.2.2, hc.1, hc.2⟩

/-- At its start an operation has all its words left, in either direction (R108). -/
theorem unfinished_at_start {m : Mover} (h : m.done = 0) (first : WordAddr) : unfinished m first = wordsFrom first m.length := by
  unfold unfinished wordsFrom
  rw [h]
  cases m.dir <;> rfl

/-- FILL (R104, R106). -/
theorem PartSound.fill {s : State} (h : PartSound s) : PartSound (fill s) := by
  unfold Machine.fill
  split
  · exact h.of_view (view_recordCommand _ _ _)
  · rename_i hok
    obtain ⟨hi, hidle, hlen, hrange, hclear⟩ := of_fillRefusal_none hok
    refine PartSound.of_view (h.moverStarts hi hidle (m := fillRecord s) ⟨Nat.zero_le _, fun _ => ⟨toNat_pos hlen,
      lt_of_rangeAllowed hrange, fun hk => by cases hk⟩⟩ fun e he => ?_) (view_recordCommand _ _ _)
    have hdst : destRange (fillRecord s) = wordsFrom (fillRecord s).dst (fillRecord s).length :=
      unfinished_at_start (m := fillRecord s) rfl _
    have hsrc : srcRange (fillRecord s) = .empty := rfl
    rw [blocked, moverMeets, hdst, hsrc, Bool.or_eq_false_iff]
    exact ⟨clear_of_not_conflicts hclear he, rfl⟩

/-- COPY (R105, R106). -/
theorem PartSound.copy {s : State} (h : PartSound s) : PartSound (copy s) := by
  unfold Machine.copy
  split
  · exact h.of_view (view_recordCommand _ _ _)
  · rename_i hok
    obtain ⟨hi, hidle, hlen, hrdst, hrsrc, hcdst, hcsrc⟩ := of_copyRefusal_none hok
    refine PartSound.of_view (h.moverStarts hi hidle (m := copyRecord s) ⟨Nat.zero_le _, fun _ => ⟨toNat_pos hlen,
      lt_of_rangeAllowed hrdst, fun _ => lt_of_rangeAllowed hrsrc⟩⟩ fun e he => ?_) (view_recordCommand _ _ _)
    have hdst : destRange (copyRecord s) = wordsFrom (copyRecord s).dst (copyRecord s).length :=
      unfinished_at_start (m := copyRecord s) rfl _
    have hsrc : srcRange (copyRecord s) = wordsFrom (copyRecord s).src (copyRecord s).length :=
      unfinished_at_start (m := copyRecord s) rfl _
    rw [blocked, moverMeets, hdst, hsrc, Bool.or_eq_false_iff]
    exact ⟨clear_of_not_conflicts hcdst he, clear_of_not_conflicts hcsrc he⟩

/-! ### The controller (Sections 8 and 9) -/

/-- A change of state between two states in pass-through, with the rest of the part as it is. -/
theorem PartSound.passThrough_to {s t : State} (h : PartSound s) (hi : s.ctl.istate.passThrough = true)
    (hi' : t.ctl.istate.passThrough = true) (hq : t.queue = s.queue) (hm : t.mover = s.mover)
    (hs : t.scan.state = s.scan.state) (hp : t.port.tenure = s.port.tenure) (hf : t.scan.fetchDue = s.scan.fetchDue)
    (ha : t.host.access = s.host.access) (hr : t.pins.reset = true → t.ctl.istate = .passive) : PartSound t := by
  refine partSound_of_quiet ?_ (by rw [hm]; exact h.2.2.2.1.1) hi' hr
  unfold Quiet
  rw [hq, hm, hs, hp, hf, ha]
  exact h.quiet hi

theorem wakeUp_istate (s : State) :
    (wakeUp s).ctl.istate = if wakeFault s = none then .starting else s.ctl.istate := by
  unfold wakeUp
  cases wakeFault s <;> rfl

/-- The wake check leads to STARTING or leaves DORMANT (R146). -/
theorem PartSound.wakeUp {s : State} (h : PartSound s) (hi : s.ctl.istate.passThrough = true) (hr : s.pins.reset = false) :
    PartSound (wakeUp s) := by
  refine h.passThrough_to hi ?_ (by simp) (by simp) (by simp) (by simp) (by simp) (by simp) (by simp [hr])
  rw [wakeUp_istate]
  split
  · rfl
  · exact hi

theorem PartSound.recordCommand {s : State} (h : PartSound s) (code : Word) (r : Result) : PartSound (recordCommand code r s) :=
  h.of_view (view_recordCommand code r s)

theorem PartSound.engage {s : State} (h : PartSound s) (hr : s.pins.reset = false) : PartSound (engage s) := by
  unfold Machine.engage
  split
  · exact h.recordCommand _ _
  · rename_i hi
    replace hi := Classical.not_not.1 hi
    split
    · refine PartSound.recordCommand ?_ _ _
      exact h.passThrough_to (by rw [hi]; rfl) rfl rfl rfl rfl rfl rfl rfl (by simp [hr])
    · refine PartSound.recordCommand ?_ _ _
      exact h.of_view (view_withCtl rfl rfl rfl)

theorem PartSound.disengage {s : State} (h : PartSound s) : PartSound (disengage s) := by
  unfold Machine.disengage
  split
  · exact h.recordCommand _ _
  · rename_i hi
    refine PartSound.recordCommand (PartSound.of_view ?_ (view_applyReadySwitch _)) _ _
    exact h.passThrough_to (by rw [hi]; rfl) rfl rfl rfl rfl rfl rfl rfl (fun _ => rfl)
  · rename_i hi
    exact (h.setIState (by rw [hi]; rfl) rfl (by rw [hi]; rfl)).recordCommand _ _
  · exact h.recordCommand _ _
  · rename_i hi
    refine PartSound.recordCommand ?_ _ _
    exact h.passThrough_to (by rw [hi]; rfl) rfl rfl rfl rfl rfl rfl rfl (fun _ => rfl)

theorem PartSound.quiesce {s : State} (h : PartSound s) : PartSound (quiesce s) := by
  unfold Machine.quiesce
  split
  · rename_i hi
    split
    · exact h.recordCommand _ _
    · exact (h.setIState (by rw [hi]; rfl) rfl (by rw [hi]; rfl)).recordCommand _ _
  all_goals exact h.recordCommand _ _

theorem PartSound.resume {s : State} (h : PartSound s) (hr : s.pins.reset = false) : PartSound (resume s) := by
  unfold Machine.resume
  split
  · exact h.recordCommand _ _
  · rename_i hi
    replace hi := Classical.not_not.1 hi
    split
    · refine PartSound.recordCommand ?_ _ _
      exact h.passThrough_to (by rw [hi]; rfl) rfl rfl rfl rfl rfl rfl rfl (by simp [hr])
    · refine PartSound.recordCommand ?_ _ _
      exact h.of_view (view_withCtl rfl rfl rfl)

theorem PartSound.commit {s : State} (h : PartSound s) : PartSound (commit s) := by
  unfold Machine.commit
  split
  · exact h.recordCommand _ _
  · rename_i hi
    replace hi := Classical.not_not.1 hi
    split
    · exact h.recordCommand _ _
    · rename_i hm
      exact ((h.commitQueue (by rw [hi]; rfl) (by rw [hi]; rfl) (Classical.not_not.1 hm)).noteWait _ _).recordCommand _ _

theorem PartSound.setptr {s : State} (h : PartSound s) : PartSound (setptr s) := by
  unfold Machine.setptr
  split
  · refine PartSound.recordCommand ?_ _ _
    exact h.of_view (view_withCtl rfl rfl rfl)
  · exact h.recordCommand _ _

theorem PartSound.ackEvents {s : State} (h : PartSound s) : PartSound (ackEvents s) := by
  refine PartSound.recordCommand ?_ _ _
  exact h.of_view (view_withCtl rfl rfl rfl)

theorem PartSound.clksel {s : State} (h : PartSound s) : PartSound (clksel s) := by
  unfold Machine.clksel
  split
  · exact h.recordCommand _ _
  · split
    · exact h.recordCommand _ _
    · split
      · exact h.recordCommand _ _
      · split
        · exact h.recordCommand _ _
        · refine PartSound.of_view (PartSound.recordCommand ?_ _ _) (view_applyIfPassive _)
          exact h.of_view (view_withClock _ _)

theorem PartSound.runCommand {s : State} (h : PartSound s) (hr : s.pins.reset = false) (c : Command) :
    PartSound (runCommand c s) := by
  cases c with
  | engage => exact h.engage hr
  | disengage => exact h.disengage
  | quiesce => exact h.quiesce
  | resume => exact h.resume hr
  | commit => exact h.commit
  | fill => exact h.fill
  | copy => exact h.copy
  | movestop => exact h.movestop
  | clksel => exact h.clksel
  | ack => exact h.ackEvents
  | setptr => exact h.setptr

/-! ### The setup port (R160) -/

/-- The windows are fields 8 to 15: storing another field leaves the class of every word (R4, R158). -/
theorem blockGeneration_storeField (v : Word) {s : State} (h : s.ctl.ptr = 6 ∨ s.ctl.ptr = 7 ∨ s.ctl.ptr = 16) :
    blockGeneration (storeField v s) = blockGeneration s := by
  have hfield : ∀ i : Fin 17, i ≠ s.ctl.ptr → (storeField v s).ctl.setup.get i = s.ctl.setup.get i := fun i hi =>
    storeField_get_of_ne v hi
  have hwindow : ∀ w ∈ windowFields, ∀ p, inWindow (storeField v s).ctl.setup p w = inWindow s.ctl.setup p w := by
    intro w hw p
    have hout : ∀ w ∈ windowFields, ∀ i ∈ [(6 : Fin 17), 7, 16], w.1 ≠ i ∧ w.2 ≠ i := by simp [windowFields]
    have hne := hout w hw s.ctl.ptr (by simpa using h)
    unfold inWindow windowEnabled windowFirst windowLast
    rw [hfield _ hne.1, hfield _ hne.2]
  have hany : ∀ p, windowFields.any (inWindow (storeField v s).ctl.setup p) = windowFields.any (inWindow s.ctl.setup p) := by
    intro p
    simp only [windowFields, List.forall_mem_cons] at hwindow
    obtain ⟨h1, h2, h3, h4, _⟩ := hwindow
    simp only [windowFields, List.any_cons, List.any_nil, h1 p, h2 p, h3 p, h4 p]
  funext b
  unfold blockGeneration writeGeneration classify
  rw [hany]
  rfl

/-- PASSIVE and DORMANT are states in pass-through. -/
theorem passThrough_of_quiet {i : IState} (h : i.quiet = true) : i.passThrough = true := by
  cases i with
  | passive | dormant => rfl
  | starting | running | draining _ _ => cases h

/-- A field is stored: a window changes only in PASSIVE and DORMANT, where the queue is empty (R158, R160). -/
theorem PartSound.storeField {s : State} (h : PartSound s) (v : Word)
    (hok : s.ctl.istate.quiet = true ∨ (s.ctl.ptr = 6 ∨ s.ctl.ptr = 7 ∨ s.ctl.ptr = 16)) : PartSound (storeField v s) := by
  rcases hok with hq | hp
  · have hi := passThrough_of_quiet hq
    exact h.passThrough_to hi hi rfl rfl rfl rfl rfl rfl h.2.2.2.2.1
  · refine h.of_view ?_
    simp only [view, blockGeneration_storeField v hp]
    rfl

theorem view_fieldStored (i : Fin 17) (v : Word) (s : State) : view (fieldStored i v s) = view s := by
  unfold fieldStored stageLo stageHi
  split
  · rfl
  · split
    · split
      · rfl
      · rw [view_raiseIf]
        rfl
    · rfl

theorem view_advancePtr (s : State) : view (advancePtr s) = view s := view_withCtl rfl rfl rfl

/-- A setup-port write (R160, R161). -/
theorem PartSound.setupWritten {s : State} (h : PartSound s) (data : Word) (lanes : Lanes) :
    PartSound (setupWritten data lanes s) := by
  unfold Machine.setupWritten
  split
  · exact h.of_view (view_raise _ _)
  · split
    · exact h.of_view ((view_advancePtr _).trans (view_raise _ _))
    · rename_i hok
      refine (h.storeField data ?_).of_view ((view_advancePtr _).trans (view_fieldStored _ _ _))
      simp only [staticField, Bool.and_eq_true, Bool.not_eq_true', Classical.not_and_iff_not_or_not, Bool.not_eq_false, Bool.or_eq_true,
        beq_iff_eq] at hok
      rcases hok with ((h6 | h7) | h16) | hq
      · exact .inr (.inl h6)
      · exact .inr (.inr (.inl h7))
      · exact .inr (.inr (.inr h16))
      · exact .inl hq

/-- The decoding of a taken write (R151). -/
theorem PartSound.controlTaken {s : State} (h : PartSound s) (w : HostWrite) : PartSound (controlTaken w s) := by
  unfold Machine.controlTaken
  split
  · rename_i c _
    unfold decoded
    split
    · exact h
    · rename_i hr
      cases c with
      | command =>
        unfold wordWritten commandWritten
        dsimp only
        repeat' split
        · exact h.runCommand (Bool.eq_false_iff.2 hr) _
        · exact h.recordCommand _ _
        · exact h.recordCommand _ _
      | arg n => exact h.of_view (view_withCtl rfl rfl rfl)
      | setupPort => exact h.setupWritten _ _
      | status | other => exact h
  · exact h

end Sys2Proof.Machine
end

section
/-! The treatment of a write (R11 to R15, R21 to R28): its cases, equation by equation. -/

namespace Sys2Proof.Machine

/-! ### The treatment by its cases (R2, R11 to R15, R21 to R24) -/

section
variable {s : State} {w : HostWrite}

theorem treatment_of_empty (h : w.lanes.empty = true) : treatment s w = .take := by
  unfold treatment; rw [if_pos h]

theorem treatment_of_drained (hl : w.lanes.empty = false) (hd : s.ctl.istate.afterDrainCut = true) :
    treatment s w = if blockClear s (blockOf w.addr) = true then .direct else .await .blockClears := by
  unfold treatment
  rw [if_neg (Bool.eq_false_iff.1 hl), if_pos hd]
  rfl

theorem treatment_of_posting (hl : w.lanes.empty = false) (hd : s.ctl.istate.afterDrainCut = false) :
    treatment s w = postTreatment s w.addr := by
  unfold treatment
  rw [if_neg (Bool.eq_false_iff.1 hl), if_neg (Bool.eq_false_iff.1 hd)]

/-- A write that finds an entry of its block and generation merges, or waits for its retire tenure (R22, R23). -/
theorem treatment_of_entry (hl : w.lanes.empty = false) (hd : s.ctl.istate.afterDrainCut = false) {e : Entry}
    (hf : findEntry s.queue (blockOf w.addr) (writeGeneration s w.addr) = some e) :
    treatment s w = if e.isWriting = true then .await .writingEnds else .merge (writeGeneration s w.addr) := by
  rw [treatment_of_posting hl hd]
  unfold postTreatment
  rw [hf]

/-- A write that finds none goes direct, or is posted where the queue has room (R11, R21, R24). -/
theorem treatment_of_no_entry (hl : w.lanes.empty = false) (hd : s.ctl.istate.afterDrainCut = false)
    (hf : findEntry s.queue (blockOf w.addr) (writeGeneration s w.addr) = none) :
    treatment s w = if mayGoDirect s w.addr = true then .direct
      else if 64 ≤ s.queue.length then .full else .post (writeGeneration s w.addr) := by
  rw [treatment_of_posting hl hd]
  unfold postTreatment
  rw [hf, queueFull_eq]
  simp only [decide_eq_true_eq]

/-- Everything the treatment of a write can be, and where. -/
theorem treatment_cases (s : State) (w : HostWrite) :
    treatment s w = .take ∨ treatment s w = .direct ∨
    (treatment s w = .await .blockClears ∧ s.ctl.istate.afterDrainCut = true ∧ blockClear s (blockOf w.addr) = false) ∨
    (treatment s w = .await .writingEnds ∧ s.ctl.istate.afterDrainCut = false) ∨
    (treatment s w = .merge (writeGeneration s w.addr)) ∨
    (treatment s w = .full ∧ s.ctl.istate.afterDrainCut = false) ∨
    (treatment s w = .post (writeGeneration s w.addr) ∧ s.ctl.istate.afterDrainCut = false ∧ w.lanes.empty = false ∧
      s.queue.length < 64 ∧ findEntry s.queue (blockOf w.addr) (writeGeneration s w.addr) = none) := by
  cases hl : w.lanes.empty with
  | true => exact .inl (treatment_of_empty hl)
  | false =>
    cases hd : s.ctl.istate.afterDrainCut with
    | true =>
      rw [treatment_of_drained hl hd]
      cases hc : blockClear s (blockOf w.addr) with
      | true => exact .inr (.inl rfl)
      | false => exact .inr (.inr (.inl ⟨rfl, rfl, rfl⟩))
    | false =>
      cases hf : findEntry s.queue (blockOf w.addr) (writeGeneration s w.addr) with
      | some e =>
        rw [treatment_of_entry hl hd hf]
        cases e.isWriting with
        | true => exact .inr (.inr (.inr (.inl ⟨rfl, rfl⟩)))
        | false => exact .inr (.inr (.inr (.inr (.inl rfl))))
      | none =>
        rw [treatment_of_no_entry hl hd hf]
        split
        · exact .inr (.inl rfl)
        · split
          · exact .inr (.inr (.inr (.inr (.inr (.inl ⟨rfl, rfl⟩)))))
          · exact .inr (.inr (.inr (.inr (.inr (.inr ⟨rfl, rfl, rfl, by omega, rfl⟩)))))

end

/-! ### A decision keeps the part sound -/

theorem PartSound.takeWrite {s : State} (h : PartSound s) (hs : s.host.access.served = false) (w : HostWrite) :
    PartSound (takeWrite w s) := by
  refine (h.withHost ?_ (fun _ => ?_) (fun _ _ => ?_)).controlTaken w
  · rw [hs]
    dsimp only
    split <;> rfl
  · dsimp only
    split <;> rfl
  · dsimp only
    split <;> rfl

/-- A write may wait where it is no claimant of an ended drain (R15, R24). -/
theorem PartSound.waitFor {s : State} (h : PartSound s) (hs : s.host.access.served = false)
    (hi : s.ctl.istate.passThrough = false) (ho : ¬(s.ctl.istate.afterDrainCut = true ∧ s.scan.state = .off)) (w : HostWrite)
    (why : WaitFor) : PartSound (waitFor w why s) :=
  h.withHost hs.symm (fun hp => absurd (hi.symm.trans hp) (by decide)) (fun ha hoff => absurd ⟨ha, hoff⟩ ho)

/-- When the drain is over every block is clear (R73). -/
theorem PartSound.blockClear_of_over {s : State} (h : PartSound s) (ha : s.ctl.istate.afterDrainCut = true)
    (ho : s.scan.state = .off) (b : BlockNo) : blockClear s b = true := by
  obtain ⟨_, _, _, _, _, _, _, _, hover, _⟩ := h
  obtain ⟨hq, hidle, _⟩ := hover ha ho
  rw [blockClear, hq, moverMeets_of_idle hidle]
  rfl

theorem PartSound.carryOut {s : State} (h : PartSound s) (hi : s.ctl.istate.passThrough = false)
    (hs : s.host.access.served = false) (w : HostWrite) : PartSound (carryOut w (treatment s w) s) := by
  have hno : ∀ {p : Prop}, s.ctl.istate.afterDrainCut = false → s.ctl.istate.afterDrainCut = true → p := fun h1 h2 =>
    absurd (h1.symm.trans h2) (by decide)
  rcases treatment_cases s w with ht | ht | ⟨ht, ha, hc⟩ | ⟨ht, hd⟩ | ht | ⟨ht, hd⟩ | ⟨ht, hd, hl, hf, hn⟩ <;> rw [ht]
  · exact h.takeWrite hs w
  · exact h.withHost hs.symm (fun hp => absurd (hi.symm.trans hp) (by decide)) (fun _ _ => rfl)
  · refine h.waitFor hs hi (fun hover => ?_) w _
    exact absurd (hc.symm.trans (h.blockClear_of_over hover.1 hover.2 _)) (by decide)
  · exact h.waitFor hs hi (fun hover => hno hd hover.1) w _
  · exact (h.mergeWrite w _).takeWrite hs w
  · exact h.waitFor hs hi (fun hover => hno hd hover.1) w _
  · exact (h.postWrite hi hd hl hf hn).takeWrite hs w

theorem PartSound.decideWrite {s : State} (h : PartSound s) (hi : s.ctl.istate.passThrough = false)
    (hs : s.host.access.served = false) (w : HostWrite) : PartSound (decideWrite w s) := by
  unfold Machine.decideWrite
  split
  · rename_i hfull
    obtain ⟨ht, hsp⟩ := hfull
    have hd : s.ctl.istate.afterDrainCut = false := by
      rcases treatment_cases s w with h' | h' | ⟨h', _⟩ | ⟨h', _⟩ | h' | ⟨_, hd⟩ | ⟨h', _⟩
      case inr.inr.inr.inr.inr.inl => exact hd
      all_goals
        rw [ht] at h'
        cases h'
    have hm : s.ctl.mode.sharing = .commit := by
      rw [spills, Bool.and_eq_true] at hsp
      simpa using hsp.1
    exact (h.spill hi hd hm).carryOut hi hs w
  · exact h.carryOut hi hs w

/-! ### Accesses that are presented (R1, R2) -/

/-- A new access that needs no tenure. -/
theorem PartSound.holdAccess {s : State} (h : PartSound s) (hb : s.host.access.busy = false) {a : HostAccess}
    (ha : a.busy = false) : PartSound (holdAccess a s) :=
  h.withHost ((HostAccess.served_of_not_busy ha).trans (HostAccess.served_of_not_busy hb).symm) (fun _ => ha) (fun _ _ => by
    revert ha
    show a.busy = false → a.isWait = false
    cases a with
    | writeWait _ _ _ => exact id
    | none | readHold _ | interventionHold _ | writeHold _ | readClaim _ _ | writeClaim _ | inTenure | handedOver => exact fun _ => rfl)

theorem PartSound.writePresented {s : State} (h : PartSound s) (hb : s.host.access.busy = false) (w : HostWrite) :
    PartSound (writePresented w s) := by
  have hnone := h.holdAccess hb (a := .none) rfl
  unfold Machine.writePresented
  split
  · rename_i hsh
    have hi : s.ctl.istate.passThrough = false := by
      rw [h.sharing_eq, Bool.not_eq_true'] at hsh
      exact hsh
    exact (hnone.decideWrite hi rfl w).settle
  · exact (hnone.of_view (view_withMem _ _)).controlTaken w

theorem PartSound.heldWriteDecided {s : State} (h : PartSound s) : PartSound (heldWriteDecided s) := by
  unfold Machine.heldWriteDecided
  split
  · rename_i ha
    exact (h.decideWrite (h.not_passThrough_of_busy (by rw [ha]; rfl)) (by rw [ha]; rfl) _).settle
  all_goals exact h

/-- A preemption marks the fetch and leaves the tenure a line fetch (R70). -/
theorem PartSound.preemptFetch {s : State} (h : PartSound s) (cycle : BitVec 10) : PartSound (preemptFetch cycle s) := by
  unfold Machine.preemptFetch
  split
  · rename_i line ht
    split
    · have h1 := h.tenure_isHost
      have h2 := h.tenure_isRetire
      rw [ht] at h1 h2
      have hi := h.not_passThrough_of_tenure ht
      have ha := h.not_afterDrainCut_of_fetch (by simp [fetchOutstanding, ht, Tenure.isLineFetch])
      exact h.withPort h1 h2 trivial (fun hp => absurd (hi.symm.trans hp) (by decide))
        (fun ha' => absurd (ha.symm.trans ha') (by decide))
    · exact h
  all_goals exact h

theorem PartSound.readTaken {s : State} (h : PartSound s) (hb : s.host.access.busy = false) (a : WordAddr) (lanes : Lanes)
    (cycle : BitVec 10) : PartSound (readTaken a lanes cycle s) := by
  have hword : PartSound (readWordTaken a lanes cycle s) := by
    unfold readWordTaken
    split
    · rename_i hsh
      have hi : s.ctl.istate.passThrough = false := by
        rw [h.sharing_eq, Bool.not_eq_true'] at hsh
        exact hsh
      unfold resolveRead
      split
      · have hclaim : PartSound (Machine.holdAccess (.readClaim a lanes) s) :=
          h.withHost (HostAccess.served_of_not_busy hb).symm (fun hp => absurd (hi.symm.trans hp) (by decide)) (fun _ _ => rfl)
        exact (hclaim.preemptFetch cycle).settle
      · exact (h.holdAccess hb rfl).of_view (view_driveData _ _)
    · exact (h.holdAccess hb rfl).of_view (view_driveData _ _)
  unfold Machine.readTaken
  split
  · split
    · exact (h.holdAccess hb rfl).of_view (view_driveData _ _)
    · exact hword
  · exact hword

end Sys2Proof.Machine
end

section
/-! The part invariant under the scan, the ends of tenures and the resets, and O59. -/

namespace Sys2Proof.Machine

/-! ### Boundaries of the scan (R76 to R87, R94) -/

/-- At a cut the scan begins a gap: the state before its queue is shifted. -/
theorem PartSound.beginGap {s : State} (h : PartSound s) (hi : s.ctl.istate.passThrough = false)
    (hd : s.ctl.istate.afterDrainCut = false) (drain : Bool) :
    PartSound ((s.withScan (s.scan.atCut drain)).withPanel s.panel.dark) := by
  refine PartSound.of_view (h.withScan_running (x := s.scan.atCut drain) hi hd (by exact ScanState.noConfusion) fun hs => ?_) (view_withPanel _ _)
  rcases hs with hs | ⟨_, hs⟩
  · cases hs
  · cases drain <;> cases hs

/-- The cut at the end of a frame (R78, R80). -/
theorem PartSound.cut {s : State} (h : PartSound s) (hs : s.scan.state = .showing) (hf : fetchOutstanding s = false) :
    PartSound (cut s) := by
  have hi := h.not_passThrough_of_scan (by rw [hs]; decide)
  have hd := h.not_afterDrainCut (by rw [hs]; decide) (by rw [hs]; exact fun hc => by cases hc.1)
  have hr := h.no_retiring (.inl hs)
  have hgap := h.beginGap hi hd s.ctl.istate.isDraining
  refine PartSound.of_view (PartSound.of_view ?_ (view_raise .frame _)) (view_applyReadySwitch _)
  cases hdr : s.ctl.istate.isDraining with
  | false =>
    rw [hdr] at hgap
    rw [cutQueue_running (by exact hdr)]
    exact hgap.cutShift hi hd (fun hc => by rcases hc with hc | ⟨_, hc⟩ <;> cases hc) hr
  | true =>
    rw [hdr] at hgap
    obtain ⟨target, hst⟩ : ∃ target, s.ctl.istate = .draining target false := by
      revert hdr hd
      cases s.ctl.istate with
      | draining target after => exact fun ha _ => ⟨target, by rw [show after = false from ha]⟩
      | passive | starting | running | dormant => exact fun _ hc => by cases hc
    rw [cutQueue_draining (by exact hst)]
    exact (hgap.drainCut hst ⟨rfl, rfl⟩ hf hr).noteWait _ _

theorem view_lineSwitch (n : BitVec 8) (s : State) : view (lineSwitch n s) = view (s.withScan (s.scan.switchTo s.lines n)) := by
  simp only [lineSwitch, view_drivePanel, view_raiseIf, view_withPanel]

/-- A line switch: the scan is in SHOW, where no entry is RETIRING (R83, R94). -/
theorem PartSound.lineSwitch {s : State} (h : PartSound s) (n : BitVec 8)
    (hs : s.scan.state = .showing ∨ (s.scan.state = .gap ∧ s.scan.sub = .leadIn)) : PartSound (lineSwitch n s) := by
  have hoff : s.scan.state ≠ .off := by
    rcases hs with hs | ⟨hs, _⟩ <;> rw [hs] <;> decide
  have hd := h.not_afterDrainCut hoff fun hc => by
    rcases hs with hs | ⟨_, hs⟩
    · exact absurd (hs.symm.trans hc.1) (by decide)
    · exact absurd (hs.symm.trans hc.2) (by decide)
  exact (h.withScan_running (h.not_passThrough_of_scan hoff) hd (by exact ScanState.noConfusion)
    fun _ => h.no_retiring hs).of_view (view_lineSwitch n s)

theorem PartSound.beginLeadIn {s : State} (h : PartSound s) (hi : s.ctl.istate.passThrough = false)
    (hd : s.ctl.istate.afterDrainCut = false) (hg : s.scan.state = .gap) (hr : hasGen s.queue .retiring = false) :
    PartSound (beginLeadIn s) :=
  (h.withScan_running (x := { s.scan with sub := .leadIn, fetchDue := some 0 }) hi hd (by rw [hg]; decide) fun _ => hr).of_view
    (view_withPanel _ _)

theorem PartSound.extendGap {s : State} (h : PartSound s) (hi : s.ctl.istate.passThrough = false)
    (hd : s.ctl.istate.afterDrainCut = false) (hg : s.scan.state = .gap) (waited : Bool) : PartSound (extendGap waited s) :=
  h.withScan_running hi hd (by rw [hg]; decide) fun hc => by
    rcases hc with hc | ⟨_, hc⟩
    · exact absurd (hg.symm.trans hc) (by decide)
    · cases hc

/-- A checked boundary (R83, R84). -/
theorem PartSound.checkGap {s : State} (h : PartSound s) (hd : s.ctl.istate.afterDrainCut = false)
    (hg : s.scan.state = .gap) : PartSound (checkGap s) := by
  have hi := h.not_passThrough_of_scan (by rw [hg]; decide)
  unfold Machine.checkGap
  split
  · exact h.extendGap hi hd hg false
  · rename_i hr
    replace hr : hasGen s.queue .retiring = false := by
      rw [retired, Bool.not_not, Bool.not_eq_true] at hr
      exact hr
    repeat' split
    · exact h.beginLeadIn hi hd hg hr
    · exact (h.beginLeadIn hi hd hg hr).of_view (view_raise _ _)
    · exact h.extendGap hi hd hg true

theorem PartSound.countGap {s : State} (h : PartSound s) (hd : s.ctl.istate.afterDrainCut = false)
    (hg : s.scan.state = .gap) : PartSound (countGap s) := by
  unfold Machine.countGap
  split
  · exact PartSound.checkGap (s := s.withScan { s.scan with gapCount := 0 }) (h.withScan_same rfl rfl rfl) hd hg
  · exact h.withScan_same rfl rfl rfl

/-! ### The end of a drain (R73, R87, R144, R145) -/

/-- A drain that is over, with the port idle and no access in progress, leaves nothing behind (R73). -/
theorem PartSound.quiet_of_over {s : State} (h : PartSound s) (ha : s.ctl.istate.afterDrainCut = true)
    (ho : s.scan.state = .off) (ht : s.port.tenure = none) (hb : s.host.access.busy = false) : Quiet s := by
  obtain ⟨_, _, _, _, _, _, _, hcut, hover, _⟩ := h
  obtain ⟨hq, hm, _⟩ := hover ha ho
  have hf := (hcut ha).2.1
  rw [fetchOutstanding, Bool.or_eq_false_iff] at hf
  exact ⟨hq, hm, ho, ht, by simpa using hf.1, hb⟩

theorem openPath_passThrough (wake : Bool) {s : State} (h : s.ctl.istate.isDraining = true) :
    (openPath wake s).ctl.istate.passThrough = true := by
  unfold openPath
  dsimp only
  split
  · rw [applyReadySwitch_istate]
    rfl
  · unfold enterDormant
    dsimp only
    split
    · rw [wakeUp_istate]
      split <;> rfl
    · rfl
  all_goals
    rename_i hi
    rw [State.withPins_ctl] at hi
    rw [hi] at h
    cases h

theorem isDraining_of_afterDrainCut {i : IState} (h : i.afterDrainCut = true) : i.isDraining = true := by
  cases i with
  | draining _ _ => rfl
  | passive | starting | running | dormant => cases h

theorem openPath_pins (wake : Bool) (s : State) : (openPath wake s).pins = { s.pins with wake := wake } := by
  unfold openPath
  dsimp only
  split <;> simp

/-- The path opens on a part with nothing in progress (R144). -/
theorem PartSound.openPath {s : State} (h : PartSound s) (wake : Bool) (ha : s.ctl.istate.afterDrainCut = true)
    (ho : s.scan.state = .off) (ht : s.port.tenure = none) (hb : s.host.access.busy = false) : PartSound (openPath wake s) := by
  have hreset := h.reset_eq_false (passThrough_of_afterDrainCut ha)
  refine partSound_of_quiet ?_ (by rw [openPath_mover]; exact h.2.2.2.1.1) (openPath_passThrough wake
    (isDraining_of_afterDrainCut ha)) (fun hr => ?_)
  · unfold Quiet
    rw [openPath_queue, openPath_mover, openPath_scan, openPath_port, openPath_host]
    exact h.quiet_of_over ha ho ht hb
  · rw [openPath_pins] at hr
    exact absurd (hreset.symm.trans hr) (by decide)

/-- The drain is over: the scan goes OFF, and a held write claims (R15, R73, R87). -/
theorem PartSound.scanOff {s : State} (h : PartSound s) (ha : s.ctl.istate.afterDrainCut = true) (hq : s.queue = [])
    (hm : s.mover.active = false) :
    PartSound ((s.withScan { s.scan with state := .off, timer := 0 }).withHost
      { s.host with access := s.host.access.claimAtDrainEnd }) := by
  have hi := passThrough_of_afterDrainCut ha
  have hserved : s.host.access.claimAtDrainEnd.served = s.host.access.served := by cases s.host.access <;> rfl
  have hwait : s.host.access.claimAtDrainEnd.isWait = false := by cases s.host.access <;> rfl
  obtain ⟨h1, h2, h3, h4, h5, _, _, hcut, _, _⟩ := h
  obtain ⟨hhost, hretire, hst⟩ := (portSound_iff s).1 h3
  obtain ⟨hgens, hf, _⟩ := hcut ha
  refine ⟨h1, h2, (portSound_iff _).2 ⟨hhost.trans hserved.symm, hretire, hst⟩, h4, h5,
    fun hp => absurd (hi.symm.trans hp) (by decide), fun _ hc => absurd (ha.symm.trans hc) (by decide),
    fun _ => ⟨hgens, hf, .inl rfl⟩, fun _ _ => (drainOver_iff _).2 ⟨hq, hm, hwait⟩, fun hc => ?_⟩
  rcases hc with hc | ⟨hc, _⟩ <;> cases hc

/-- An access that neither claims nor waits is held by its tenure or not busy. -/
theorem busy_claimAtDrainEnd {a : HostAccess} (hs : a.served = false) (hc : a.claimAtDrainEnd.claims = false) :
    a.claimAtDrainEnd.busy = false := by
  cases a with
  | none | readHold _ | interventionHold _ | writeHold _ => rfl
  | readClaim _ _ | writeClaim _ | writeWait _ _ _ => exact absurd hc Bool.noConfusion
  | inTenure | handedOver => exact absurd hs Bool.noConfusion

/-- A checked boundary of a drain gap (R87). -/
theorem PartSound.drainCheck {s : State} (h : PartSound s) (wake : Bool) (ha : s.ctl.istate.afterDrainCut = true)
    (hg : s.scan.state = .gap ∧ s.scan.sub = .extend) : PartSound (drainCheck wake s) := by
  unfold Machine.drainCheck
  split
  · rename_i hdone
    rw [Bool.and_eq_true, Bool.not_eq_true', List.isEmpty_iff] at hdone
    have hoff := h.scanOff ha hdone.1 hdone.2
    unfold drainEnds
    dsimp only
    split
    · exact hoff
    · rename_i hidle
      simp only [Bool.or_eq_true, not_or, Bool.not_eq_true, State.withHost_host, State.withHost_port, State.withScan_port,
        Option.isSome_eq_false_iff, Option.isNone_iff_eq_none] at hidle
      exact hoff.openPath wake ha rfl hidle.2 (busy_claimAtDrainEnd (h.idle_port hidle.2).1 hidle.1)
  · exact h.withScan_same rfl hg.2.symm rfl

/-- What a boundary does keeps the part sound (R76). -/
theorem PartSound.boundary {s : State} (h : PartSound s) (wake : Bool) (hf : fetchOutstanding s = false) :
    PartSound (boundary wake s) := by
  unfold Machine.boundary
  split
  · exact h
  · rename_i hs
    unfold endLinePeriod
    dsimp only
    have hpls : PartSound (s.withPanel { s.panel with pls := s.scan.line }) := h.of_view (view_withPanel _ _)
    split
    · exact hpls.cut hs hf
    · exact hpls.lineSwitch _ (.inl hs)
  · rename_i hg
    have hoff : s.scan.state ≠ .off := by rw [hg]; decide
    unfold gapBoundary
    split
    · rename_i hsub
      exact h.countGap (h.not_afterDrainCut hoff fun hc => absurd (hsub.symm.trans hc.2) (by decide)) hg
    · rename_i hsub
      split
      · rename_i ha
        exact h.drainCheck wake ha ⟨hg, hsub⟩
      · rename_i ha
        exact h.checkGap (Bool.eq_false_iff.2 ha) hg
    · rename_i hsub
      exact h.lineSwitch 0 (.inr ⟨hg, hsub⟩)

theorem PartSound.linePeriodBoundary {s : State} (h : PartSound s) (wake : Bool) : PartSound (linePeriodBoundary wake s) := by
  unfold Machine.linePeriodBoundary
  split
  · exact h
  · rename_i hf
    have htimer : PartSound (s.withScan { s.scan with timer := 0 }) := h.withScan_same rfl rfl rfl
    exact (htimer.boundary wake (Bool.eq_false_iff.2 fun hc => hf (.inr hc))).settle

/-! ### The first cut (R72, R79, R141) -/

/-- From pass-through the part begins to share the memory with a gap (R79). -/
theorem PartSound.start {s : State} (h : PartSound s) (hr : s.pins.reset = false) {x : Scan}
    (hx : x.state = .gap ∧ x.sub = .count) : PartSound (Machine.setIState .running (s.withScan x)) := by
  obtain ⟨hgap, hsub⟩ := hx
  obtain ⟨hq, he, hport, hm, _, _, _, _, _, _⟩ := h
  refine ⟨hq, he, hport, hm, fun hr' => absurd (hr.symm.trans hr') (by decide), fun hp => ?_, fun _ _ => ?_,
    fun ha => ?_, fun ha => ?_, fun hs => ?_⟩
  · cases hp
  · show x.state ≠ .off
    rw [hgap]
    decide
  · cases ha
  · cases ha
  · rcases hs with hs | ⟨_, hs⟩
    · exact absurd (hgap.symm.trans hs) (by decide)
    · exact absurd (hsub.symm.trans hs) (by decide)

theorem cutShift_nil (m : Sharing) : cutShift m [] = [] := by cases m <;> rfl

/-- The state of the first cut before the hand-over of the access in progress. -/
def firstCutState (s : State) : State := (raise .stateChange (setIState .running (cut s))).withPort ⟨none, .hostNext⟩

/-- A cut with an empty queue outside a drain changes the scan only, as far as the invariant sees. -/
theorem view_cut_of_empty {s : State} (hd : s.ctl.istate.isDraining = false) (hq : s.queue = []) :
    view (cut s) = { view s with scan := .gap, sub := .count } := by
  unfold cut
  rw [view_applyReadySwitch, view_raise, cutQueue_running (by exact hd), hd]
  show view (((s.withScan _).withPanel _).withQueue (cutShift s.ctl.mode.sharing s.queue)) = _
  rw [hq, cutShift_nil, ← hq]
  rfl

theorem PartSound.firstCutState {s : State} (h : PartSound s) (hi : s.ctl.istate = .starting) (hr : s.pins.reset = false) :
    PartSound (firstCutState s) := by
  have hp : s.ctl.istate.passThrough = true := by rw [hi]; rfl
  obtain ⟨hq, _, _, ht, _, _⟩ := h.quiet hp
  refine (h.start hr (x := s.scan.atCut false) ⟨rfl, rfl⟩).of_view ?_
  unfold Machine.firstCutState
  rw [view_withPort, view_raise, view_setIState, view_cut_of_empty (by rw [hi]; rfl) hq, view_setIState, view_withScan]
  simp only [view, ht]
  rfl

/-- The access in progress becomes a tenure, or is complete (R72). -/
theorem PartSound.handOver {s : State} (h : PartSound s) (ht : s.port.tenure = none) (hi : s.ctl.istate = .running)
    (access : CutAccess) : PartSound (handOver access s) := by
  obtain ⟨hserved, hwriting⟩ := h.idle_port ht
  have hp : s.ctl.istate.passThrough = false := by rw [hi]; rfl
  have hd : s.ctl.istate.afterDrainCut = false := by rw [hi]; rfl
  have htenure : ∀ t : Tenure, t.isHost = true → PartSound
      ((s.withPort { s.port with tenure := some t }).withHost { s.host with access := .handedOver }) := by
    intro t hh
    have hr : t.isRetire = false ∧ t.isMoverStep = false := by
      cases t with
      | hostRead _ _ _ _ | hostWrite _ => exact ⟨rfl, rfl⟩
      | retire | lineFetch _ _ | fillStep _ | copyStep _ => cases hh
    exact h.withPortHost hh (hr.1.trans hwriting.symm) (stepFits_of_no_step _ hr.2)
      (fun hp' => absurd (hp.symm.trans hp') (by decide)) (fun ha => absurd (hd.symm.trans ha) (by decide)) (fun _ _ => rfl)
  unfold Machine.handOver
  split
  · exact h
  · split
    · exact h
    · exact htenure _ rfl
  · split
    · exact (h.withHost (x := { s.host with access := .none }) hserved.symm (fun _ => rfl) (fun _ _ => rfl)).controlTaken _
    · exact htenure _ rfl

theorem PartSound.firstCut {s : State} (h : PartSound s) (access : CutAccess) : PartSound (firstCut access s) := by
  unfold Machine.firstCut
  split
  · rename_i hc
    exact (h.firstCutState hc.1 (by simpa using hc.2.2)).handOver rfl rfl access
  · exact h

/-! ### The ends of tenures (R40, R50, R70, R73, R91, R111) -/

/-- After a host tenure the port is idle and HWAIT released, so that the path may open (R73). -/
theorem PartSound.afterHostTenure {s : State} (h : PartSound s) (wake : Bool) (ht : s.port.tenure = none)
    (hb : s.host.access.busy = false) : PartSound (afterHostTenure wake s) := by
  unfold Machine.afterHostTenure
  split
  · rename_i hover
    exact h.openPath wake hover.1 hover.2 ht hb
  · exact h.settle

theorem PartSound.hostReadTenureEnd {s : State} (h : PartSound s) (wake : Bool) : PartSound (hostReadTenureEnd wake s) := by
  unfold Machine.hostReadTenureEnd
  split
  · rename_i ht
    refine PartSound.afterHostTenure (PartSound.of_view (h.endHostTenure ht rfl) ?_) wake rfl rfl
    rfl
  all_goals exact h

/-- With the port idle an access that does not hold HWAIT is not busy. -/
theorem busy_of_hwait {s : State} (h : PartSound s) (ht : s.port.tenure = none) (hw : hwait s = false) :
    s.host.access.busy = false := by
  have hs := (h.idle_port ht).1
  revert hs hw
  unfold hwait
  cases s.host.access with
  | none | readHold _ | interventionHold _ | writeHold _ => exact fun _ _ => rfl
  | readClaim _ _ | writeClaim _ | writeWait _ _ _ | inTenure => exact fun hw _ => absurd hw Bool.noConfusion
  | handedOver => exact fun _ hs => absurd hs Bool.noConfusion

theorem PartSound.hostWriteTenureEnd {s : State} (h : PartSound s) (wake : Bool) : PartSound (hostWriteTenureEnd wake s) := by
  unfold Machine.hostWriteTenureEnd
  split
  · rename_i w ht
    have hended : PartSound (Machine.endTenure (releaseHost (s.withMem (memAfter s (.hostWrite w))))) :=
      (h.of_view (view_withMem s _)).endHostTenure ht rfl
    have htaken := hended.controlTaken w
    have hport : (Machine.controlTaken w (Machine.endTenure (releaseHost (s.withMem (memAfter s (.hostWrite w)))))).port.tenure
        = none := by rw [controlTaken_port]; rfl
    exact htaken.afterHostTenure wake hport (busy_of_hwait htaken hport ((hwait_controlTaken _ _).trans rfl))
  all_goals exact h

theorem PartSound.retireTenureEnd {s : State} (h : PartSound s) : PartSound (retireTenureEnd s) := by
  unfold Machine.retireTenureEnd
  split
  · rename_i ht
    rw [← raiseIf_endTenure, ← noteWait_endTenure]
    have hended := PartSound.endRetireTenure (s := s.withMem (memAfter s .retire)) (h.of_view (view_withMem s _)) ht
    exact ((hended.noteWait true true).of_view (view_raiseIf _ _ _)).settle
  all_goals exact h

theorem view_fetchLeaves (line : BitVec 8) (b : LineBuffer) (s : State) :
    view (fetchLeaves line b s) = view (Machine.endTenure s) := by
  unfold fetchLeaves
  rw [view_endTenure, view_withScan, setBuffer_state, setBuffer_sub, setBuffer_fetchDue]
  rfl

theorem PartSound.fetchEnds {s : State} (h : PartSound s) {line : BitVec 8} {p : Option (BitVec 10)}
    (ht : s.port.tenure = some (.lineFetch line p)) : PartSound (fetchEnds line s) :=
  (h.endTenure ht rfl rfl).of_view (view_fetchLeaves _ _ s)

theorem PartSound.fetchAborts {s : State} (h : PartSound s) {line : BitVec 8} {p : Option (BitVec 10)}
    (ht : s.port.tenure = some (.lineFetch line p)) (c : BitVec 10) : PartSound (fetchAborts line c s) :=
  (h.endTenure ht rfl rfl).of_view (view_fetchLeaves _ _ s)

theorem PartSound.lineFetchEnd {s : State} (h : PartSound s) : PartSound (lineFetchEnd s) := by
  unfold Machine.lineFetchEnd
  split
  · rename_i ht
    exact (h.fetchEnds ht).settle
  · rename_i ht
    split
    · exact ((h.fetchEnds ht).grantHost rfl).settle
    · exact h
  all_goals exact h

theorem PartSound.preemptedCycleEnd {s : State} (h : PartSound s) : PartSound (preemptedCycleEnd s) := by
  unfold Machine.preemptedCycleEnd
  split
  · rename_i line c ht
    split
    · exact ((h.fetchEnds ht).grantHost rfl).settle
    · exact ((h.fetchAborts ht c).grantHost rfl).settle
  all_goals exact h

/-- The end of a mover step that has its words to write (R111). -/
theorem PartSound.moverStepDone {s : State} (h : PartSound s) {t : Tenure} {k : Nat} (ht : s.port.tenure = some t)
    (hs : t.isMoverStep = true) (hk : k ≤ s.mover.remaining) : PartSound (moverStepDone t k s) := by
  have hkind : t.isHost = false ∧ t.isRetire = false := by
    cases t with
    | fillStep _ | copyStep _ => exact ⟨rfl, rfl⟩
    | hostRead _ _ _ _ | hostWrite _ | retire | lineFetch _ _ => cases hs
  have hle := h.2.2.2.1.1
  unfold Mover.remaining at hk
  have hended : PartSound (Machine.endTenure (s.withMem (memAfter s t))) :=
    (h.of_view (view_withMem s _)).endTenure ht hkind.1 hkind.2
  exact (hended.stepEnded rfl (by show s.mover.done.toNat + k ≤ s.mover.length.toNat; omega)).settle

theorem PartSound.moverStepEnd {s : State} (h : PartSound s) : PartSound (moverStepEnd s) := by
  have hst := h.stepFits
  unfold Machine.moverStepEnd
  split
  · rename_i ht
    rw [ht] at hst
    exact h.moverStepDone ht rfl hst.2.2.2.2
  · rename_i ht
    rw [ht] at hst
    exact h.moverStepDone ht rfl hst.2.2.2.2
  all_goals exact h

/-! ### Resets, straps and the other events -/

theorem PartSound.resetAsserted {s : State} (h : PartSound s) (cycle : BitVec 10) (done : Bool) :
    PartSound (resetAsserted cycle done s) := by
  unfold Machine.resetAsserted
  split
  · exact h
  · exact partSound_of_quiet ⟨rfl, rfl, rfl, rfl, rfl, rfl⟩ (Nat.le_refl _) rfl fun _ => rfl

theorem partSound_powerOnReset (cps : BitVec 3) (cks : BitVec 2) (s : State) : PartSound (powerOnReset cps cks s) :=
  partSound_of_quiet ⟨rfl, rfl, rfl, rfl, rfl, rfl⟩ (Nat.le_refl _) rfl fun _ => rfl

/-- While RESET# is asserted the part is quiet, so its pins may change (R149). -/
theorem PartSound.withPins_reset {s : State} (h : PartSound s) (hr : s.pins.reset = true) (p : Pins) :
    PartSound (s.withPins p) := by
  have hi := h.2.2.2.2.1 hr
  exact h.passThrough_to (by rw [hi]; rfl) (by rw [State.withPins_ctl, hi]; rfl) rfl rfl rfl rfl rfl rfl fun _ => hi

theorem PartSound.withPins_same {s : State} (h : PartSound s) {p : Pins} (hr : p.reset = s.pins.reset)
    (hc : p.cps = s.pins.cps) : PartSound (s.withPins p) := by
  have hg : blockGeneration (s.withPins p) = blockGeneration s := blockGeneration_congr rfl rfl hc
  refine h.of_view ?_
  simp only [view, hg, State.withPins_pins, hr]
  rfl

theorem PartSound.resetReleased {s : State} (h : PartSound s) : PartSound (resetReleased s) := by
  unfold Machine.resetReleased
  split
  · rename_i hr
    exact (h.withPins_reset hr _).of_view (view_withClock _ _)
  · exact h

theorem PartSound.strapSampling {s : State} (h : PartSound s) (cps : BitVec 3) (cks : BitVec 2) :
    PartSound (strapSampling cps cks s) := by
  unfold Machine.strapSampling
  split
  · rename_i hr
    exact (h.withPins_reset hr _).of_view (view_withClock _ _)
  · exact h.withPins_same rfl rfl

theorem PartSound.wakeArrival {s : State} (h : PartSound s) : PartSound (wakeArrival s) := by
  have hpin : PartSound (s.withPins { s.pins with wake := true }) := h.withPins_same rfl rfl
  unfold Machine.wakeArrival
  dsimp only
  split
  · rename_i hc
    refine hpin.wakeUp (by rw [hc.1]; rfl) (by simpa using hc.2)
  · exact hpin

/-- The end of a minimum hold (R52). -/
theorem PartSound.minimumHoldElapsed {s : State} (h : PartSound s) : PartSound (minimumHoldElapsed s) := by
  have hover : s.host.holdOver.access = s.host.access ∨
      (s.host.access.busy = false ∧ s.host.holdOver.access = .none) := by
    unfold HostBus.holdOver
    split
    case h_1 ha | h_2 ha | h_3 ha => exact .inr ⟨by rw [ha]; rfl, rfl⟩
    all_goals exact .inl rfl
  rcases hover with ha | ⟨hb, ha⟩
  · exact h.of_view (by rw [Machine.minimumHoldElapsed, view_withHost, ha]; rfl)
  · exact h.withHost (by rw [ha, HostAccess.served_of_not_busy hb]; rfl) (fun _ => by rw [ha]; rfl) (fun _ _ => by rw [ha]; rfl)

theorem PartSound.frameSyncArrival {s : State} (h : PartSound s) : PartSound (frameSyncArrival s) := by
  unfold Machine.frameSyncArrival
  split
  · exact h.withScan_same rfl rfl rfl
  · exact h

theorem PartSound.panelLineSequence {s : State} (h : PartSound s) (clock : BitVec 12) (half : Bool) :
    PartSound (panelLineSequence clock half s) := by
  unfold Machine.panelLineSequence
  split
  · have hscan : PartSound (s.withScan { s.scan with timer := clock }) := h.withScan_same rfl rfl rfl
    exact hscan.of_view (view_drivePanel _ _ _ _)
  · exact h

/-- The events of the clock unit touch clock and event word only. -/
theorem view_lossOfXclk (s : State) : view (lossOfXclk s) = view s := by
  unfold lossOfXclk failover abandonExternal
  repeat' split
  all_goals rfl

theorem view_readinessTimeout (s : State) : view (readinessTimeout s) = view s := by
  unfold readinessTimeout
  repeat' split
  all_goals rfl

theorem view_switchReady (p : PendingSwitch) (s : State) : view (switchReady p s) = view s := by simp [switchReady]

theorem view_multiplierLocked (s : State) : view (multiplierLocked s) = view s := by
  unfold multiplierLocked
  dsimp only
  repeat' split
  · rfl
  · rfl
  · exact view_switchReady _ _
  all_goals rfl

theorem view_xclkContinuityReady (s : State) : view (xclkContinuityReady s) = view s := by
  unfold xclkContinuityReady
  split
  · rfl
  · split
    · repeat' split
      all_goals rfl
    · split
      · exact view_switchReady _ _
      · split <;> rfl
      · rfl
      · rfl

/-! ### Every command -/

theorem PartSound.decoded {s : State} (h : PartSound s) {f : State → State} (hf : s.pins.reset = false → PartSound (f s)) :
    PartSound (decoded f s) := by
  unfold Machine.decoded
  split
  · exact h
  · rename_i hr
    exact hf (Bool.eq_false_iff.2 hr)

/-- Every command keeps the part sound. -/
theorem PartSound.exec {s t : State} (c : Instr) (h : PartSound s) (hx : exec c s = .next t) : PartSound t := by
  cases c with
  | hostRead a lanes cycle =>
    obtain ⟨hb, rfl⟩ := of_oneAtATime hx
    exact h.readTaken hb a lanes cycle
  | hostWrite a data lanes =>
    obtain ⟨hb, rfl⟩ := of_oneAtATime hx
    exact h.writePresented hb _
  | statusWordWrite k data lanes =>
    obtain ⟨hb, rfl⟩ := of_oneAtATime hx
    exact h.writePresented hb _
  | heldWriteDecidedAfresh => exact Host.Outcome.next.inj hx ▸ h.heldWriteDecided
  | hostReadTenureEnd wake => exact Host.Outcome.next.inj hx ▸ h.hostReadTenureEnd wake
  | hostDirectWriteTenureEnd wake => exact Host.Outcome.next.inj hx ▸ h.hostWriteTenureEnd wake
  | retireTenureEnd => exact Host.Outcome.next.inj hx ▸ h.retireTenureEnd
  | lineFetchEnd => exact Host.Outcome.next.inj hx ▸ h.lineFetchEnd
  | preemptedFetchCycleEnd => exact Host.Outcome.next.inj hx ▸ h.preemptedCycleEnd
  | moverStepEnd => exact Host.Outcome.next.inj hx ▸ h.moverStepEnd
  | linePeriodBoundary wake => exact Host.Outcome.next.inj hx ▸ h.linePeriodBoundary wake
  | frameSyncArrival => exact Host.Outcome.next.inj hx ▸ h.frameSyncArrival
  | firstCut access => exact Host.Outcome.next.inj hx ▸ h.firstCut access
  | engage => exact Host.Outcome.next.inj hx ▸ h.decoded h.engage
  | disengage => exact Host.Outcome.next.inj hx ▸ h.decoded fun _ => h.disengage
  | quiesce => exact Host.Outcome.next.inj hx ▸ h.decoded fun _ => h.quiesce
  | resume => exact Host.Outcome.next.inj hx ▸ h.decoded h.resume
  | commit => exact Host.Outcome.next.inj hx ▸ h.decoded fun _ => h.commit
  | fill => exact Host.Outcome.next.inj hx ▸ (h.decoded fun _ => h.fill).settle
  | copy => exact Host.Outcome.next.inj hx ▸ (h.decoded fun _ => h.copy).settle
  | movestop => exact Host.Outcome.next.inj hx ▸ (h.decoded fun _ => h.movestop).settle
  | clksel => exact Host.Outcome.next.inj hx ▸ h.decoded fun _ => h.clksel
  | ack => exact Host.Outcome.next.inj hx ▸ h.decoded fun _ => h.ackEvents
  | setptr => exact Host.Outcome.next.inj hx ▸ h.decoded fun _ => h.setptr
  | unknownCommand code =>
    obtain rfl := Host.Outcome.next.inj hx
    split
    · exact h
    · exact h.decoded fun _ => h.recordCommand _ _
  | malformedCommand data lanes =>
    obtain rfl := Host.Outcome.next.inj hx
    split
    · exact h
    · exact h.decoded fun _ => h.recordCommand _ _
  | argumentWrite n data lanes =>
    exact Host.Outcome.next.inj hx ▸ h.decoded fun _ => h.of_view (view_withCtl rfl rfl rfl)
  | setupPortWrite data lanes => exact Host.Outcome.next.inj hx ▸ h.decoded fun _ => h.setupWritten data lanes
  | wakeArrival => exact Host.Outcome.next.inj hx ▸ h.wakeArrival
  | lossOfXclk => exact Host.Outcome.next.inj hx ▸ h.of_view (view_lossOfXclk s)
  | xclkContinuityReady => exact Host.Outcome.next.inj hx ▸ h.of_view (view_xclkContinuityReady s)
  | multiplierLocked => exact Host.Outcome.next.inj hx ▸ h.of_view (view_multiplierLocked s)
  | readinessTimeout => exact Host.Outcome.next.inj hx ▸ h.of_view (view_readinessTimeout s)
  | resetAsserted cycle done => exact Host.Outcome.next.inj hx ▸ h.resetAsserted cycle done
  | resetReleased => exact Host.Outcome.next.inj hx ▸ h.resetReleased
  | powerOnReset cps cks => exact Host.Outcome.next.inj hx ▸ partSound_powerOnReset cps cks s
  | minimumHoldElapsed => exact Host.Outcome.next.inj hx ▸ h.minimumHoldElapsed
  | panelPortLineSequence clock half => exact Host.Outcome.next.inj hx ▸ h.panelLineSequence clock half
  | strapSampling cps cks => exact Host.Outcome.next.inj hx ▸ h.strapSampling cps cks

/-- Settles O59: the invariant does not see the queue of commands, and every command keeps it. -/
theorem everyStepKeepsThePartSound : Obligations.EveryStepKeepsThePartSound := fun s t h hst =>
  step_keeps (P := PartSound) (fun u _ hu => hu.of_view (view_withPending u _)) (fun c _ _ hu hv => hu.exec c hv) s t h hst

end Sys2Proof.Machine
end

section
/-! Resets and straps (R134, R135, R149, R150): O2, O3, O55, and RESET# as a gate of every command row, O45. -/

namespace Sys2Proof.Machine

/-! ### The clock unit a strap gives (R134, R135) -/

theorem strapClock_eq (cks : BitVec 2) :
    strapClock cks =
      ⟨if cks = 0 then .rcb else if cks = 1 then .rcf else if cks = 2 then .ext else .rcs,
       if cks = 2 then .checking .strap else .ready, none, ⟨.off, .rcf, 0⟩, none⟩ := by
  revert cks; decide

theorem beginStrapCheck_strapClock (cks : BitVec 2) :
    (strapClock cks).beginStrapCheck =
      ⟨if cks = 0 then .rcb else if cks = 1 then .rcf else if cks = 2 then .ext else .rcs,
       if cks = 2 then .checking .strap else .ready, none, ⟨.off, .rcf, 0⟩, if cks = 2 then some 0 else none⟩ := by
  revert cks; decide

/-- Only the timer may change where the strap check begins (R134). -/
theorem Clock.beginStrapCheck_eq (c : Clock) :
    c.beginStrapCheck = { c with timer := if c.cond = .checking .strap then some 0 else c.timer } := by
  unfold Clock.beginStrapCheck
  split <;> rfl

/-! ### RESET# gates the command rows (R8, R151) -/

theorem decoded_of_reset (f : State → State) {s : State} (h : s.pins.reset = true) : decoded f s = s := by
  unfold decoded; rw [if_pos h]

theorem settle_decoded_of_reset (f : State → State) {s : State} (h : s.pins.reset = true) : settle (decoded f s) = s := by
  rw [decoded_of_reset f h]
  exact settle_of_not_sharing (by unfold sharing; rw [h]; rfl)

/-! ### The obligations -/

/-- Settles O2: a power-on reset replaces every block; the clock unit is the strap's, its check begun. -/
theorem powerOnResetLeaves : Obligations.PowerOnResetLeaves := fun s cps cks =>
  ⟨powerOnReset cps cks s, rfl, rfl, rfl, rfl, rfl, rfl, rfl, rfl, rfl, beginStrapCheck_strapClock cks, rfl, rfl⟩

/-- Settles O3: the state after reset is that of a power-on reset, which is sound from any state. -/
theorem resetStateIsSound : Obligations.ResetStateIsSound := by
  have hreset : powerOnReset Config.resetCps Config.resetCks State.reset = State.reset := rfl
  refine ⟨congrArg _ hreset, ?_, ?_, rfl⟩
  · exact hreset ▸ partSound_powerOnReset _ _ _
  · exact hreset ▸ clockSound_powerOnReset _ _ _

/-- Settles O55: the release and the sampling of the straps, by the level of RESET#. -/
theorem strapsAreSampledInReset : Obligations.StrapsAreSampledInReset := by
  intro s cps cks
  refine ⟨fun hr => ⟨congrArg Host.Outcome.next ?_, congrArg Host.Outcome.next ?_⟩,
    fun hr => congrArg Host.Outcome.next (a₁ := strapSampling cps cks s) ?_⟩
  · unfold resetReleased
    rw [if_pos hr]
    exact congrArg (State.withClock _) (Clock.beginStrapCheck_eq s.clock)
  · unfold strapSampling
    rw [if_pos hr, strapClock_eq]
  · unfold strapSampling
    rw [if_neg (Bool.eq_false_iff.1 hr)]

/-- Settles O45: every command row is gated by RESET#, and in reset there is no grant. -/
theorem nothingIsDecodedInReset : Obligations.NothingIsDecodedInReset := by
  intro s hr
  refine ⟨?_, fun code => ?_, fun data lanes => ?_, fun n data lanes => congrArg _ (decoded_of_reset _ hr),
    fun data lanes => congrArg _ (decoded_of_reset _ hr)⟩
  · simp only [List.forall_mem_cons]
    exact ⟨congrArg _ (decoded_of_reset _ hr), congrArg _ (decoded_of_reset _ hr), congrArg _ (decoded_of_reset _ hr),
      congrArg _ (decoded_of_reset _ hr), congrArg _ (decoded_of_reset _ hr), congrArg _ (settle_decoded_of_reset _ hr),
      congrArg _ (settle_decoded_of_reset _ hr), congrArg _ (settle_decoded_of_reset _ hr),
      congrArg _ (decoded_of_reset _ hr), congrArg _ (decoded_of_reset _ hr), congrArg _ (decoded_of_reset _ hr),
      fun _ hc => absurd hc List.not_mem_nil⟩
  · exact congrArg Host.Outcome.next ((congrArg (ite _ s) (decoded_of_reset _ hr)).trans (ite_self s))
  · exact congrArg Host.Outcome.next ((congrArg (ite _ s) (decoded_of_reset _ hr)).trans (ite_self s))

end Sys2Proof.Machine
end

section
/-! The setup record and the argument latches (R98, R99, R152, R158 to R161): O48 and O49. -/

namespace Sys2Proof.Machine

/-! ### Lanes of a word (R170) -/

theorem loByte_mergeLanes (old data : Word) (lanes : Lanes) :
    loByte (mergeLanes old data lanes) = loByte (if lanes.lane0 then data else old) := by
  unfold mergeLanes
  rw [loByte_mkWord]
  split <;> rfl

theorem hiByte_mergeLanes (old data : Word) (lanes : Lanes) :
    hiByte (mergeLanes old data lanes) = hiByte (if lanes.lane1 then data else old) := by
  unfold mergeLanes
  rw [hiByte_mkWord]
  split <;> rfl

/-! ### The setup port by its cases (R158 to R161) -/

theorem exec_setupPortWrite {s : State} (data : Word) (lanes : Lanes) (h : s.pins.reset = false) :
    exec (.setupPortWrite data lanes) s = .next (setupWritten data lanes s) := congrArg _ (decoded_of_reset_false _ h)

theorem setupWritten_partial {lanes : Lanes} (data : Word) (s : State) (h : lanes.full = false) :
    setupWritten data lanes s = raise .refused s := by
  unfold setupWritten; rw [if_pos (by rw [h]; rfl)]

theorem setupWritten_refused {lanes : Lanes} (data : Word) {s : State} (h : lanes.full = true)
    (hs : staticField s.ctl.ptr = true) (hq : s.ctl.istate.quiet = false) :
    setupWritten data lanes s = advancePtr (raise .refused s) := by
  unfold setupWritten; rw [if_neg (by rw [h]; decide), if_pos (by rw [hs, hq]; rfl)]

theorem setupWritten_stored {lanes : Lanes} (data : Word) {s : State} (h : lanes.full = true)
    (hok : staticField s.ctl.ptr = false ∨ s.ctl.istate.quiet = true) :
    setupWritten data lanes s = advancePtr (fieldStored s.ctl.ptr data (storeField data s)) := by
  have hn : ¬(staticField s.ctl.ptr && !s.ctl.istate.quiet) = true := by
    rcases hok with hok | hok <;> rw [hok]
    · exact Bool.false_ne_true
    · rw [Bool.not_true, Bool.and_false]
      exact Bool.false_ne_true
  unfold setupWritten; rw [if_neg (by rw [h]; decide), if_neg hn]

theorem staticField_iff (i : Fin 17) : staticField i = true ↔ i ≠ 6 ∧ i ≠ 7 ∧ i ≠ 16 := by
  simp only [staticField, Bool.not_eq_true', Bool.or_eq_false_iff, beq_eq_false_iff_ne, and_assoc]

theorem quiet_iff (i : IState) : i.quiet = true ↔ i = .passive ∨ i = .dormant := by
  simp only [IState.quiet, Bool.or_eq_true, beq_iff_eq]

/-- The pointer after a full-word write (R159). -/
theorem nextPtr_eq (i : Fin 17) : nextPtr i = if h : i.val + 1 < 17 then (⟨i.val + 1, h⟩ : Fin 17) else 16 := by
  revert i; decide

/-! ### The obligations -/

/-- Settles O48: the latch is merged lane by lane. -/
theorem argumentWriteSetsItsLatch : Obligations.ArgumentWriteSetsItsLatch := by
  intro s n data lanes hr
  refine ⟨s.ctl.args.set n (mergeLanes (s.ctl.args.get n) data lanes), congrArg _ (decoded_of_reset_false _ hr), ?_, ?_,
    fun m hm => ?_⟩
  · have hget : (s.ctl.args.set n (mergeLanes (s.ctl.args.get n) data lanes)).get n = mergeLanes (s.ctl.args.get n) data lanes :=
      Vector.getElem_set_self _
    rw [hget]
    exact loByte_mergeLanes _ _ _
  · have hget : (s.ctl.args.set n (mergeLanes (s.ctl.args.get n) data lanes)).get n = mergeLanes (s.ctl.args.get n) data lanes :=
      Vector.getElem_set_self _
    rw [hget]
    exact hiByte_mergeLanes _ _ _
  · exact Vector.getElem_set_ne n.isLt m.isLt fun hv => hm (Fin.ext hv.symm)

/-- Settles O49: the setup port by kind of field, interposer state and lanes. -/
theorem setupPortWritesTheField : Obligations.SetupPortWritesTheField := by
  intro s data lanes hr
  dsimp only
  rw [exec_setupPortWrite data lanes hr]
  refine ⟨fun hl => ?_, fun hl hs hq => ?_, fun hl hok => ?_⟩
  · rw [setupWritten_partial data s hl]
    rfl
  · rw [setupWritten_refused data hl ((staticField_iff _).2 hs) (Bool.eq_false_iff.2 fun h => hq ((quiet_iff _).1 h)),
      ← nextPtr_eq]
    rfl
  · have hplain : s.ctl.ptr ≠ 6 ∧ s.ctl.ptr ≠ 7 := by
      rcases hok with ⟨⟨h6, h7, _⟩, _⟩ | h16
      · exact ⟨h6, h7⟩
      · rw [h16]
        decide
    have hstored : staticField s.ctl.ptr = false ∨ s.ctl.istate.quiet = true := by
      rcases hok with ⟨_, hq⟩ | h16
      · exact .inr ((quiet_iff _).2 hq)
      · exact .inl (by rw [h16]; rfl)
    rw [setupWritten_stored data hl hstored, fieldStored, if_neg hplain.1, if_neg hplain.2, ← nextPtr_eq]
    rfl

end Sys2Proof.Machine
end

section
/-! Staging the table base (R89, R98, R99): O50. -/

namespace Sys2Proof.Machine

/-! ### The base as a number (R89) -/

/-- The mask of the base clears bits 1–0 (R89). -/
theorem and_mask_eq (x : ByteAddr) : x &&& (0x1FFFFC : ByteAddr) = (x >>> 2) <<< 2 := by
  have hmask : ∀ i : Fin 21, (0x1FFFFC : ByteAddr)[i.val] = decide (2 ≤ i.val) := by decide
  ext i hi
  rw [BitVec.getElem_and, hmask ⟨i, hi⟩, BitVec.getElem_shiftLeft, BitVec.getElem_ushiftRight]
  rcases Nat.lt_or_ge i 2 with h2 | h2
  · rw [decide_eq_false (Nat.not_le.2 h2), decide_eq_true h2, Bool.and_false]
    rfl
  · rw [decide_eq_true h2, decide_eq_false (Nat.not_lt.2 h2), Bool.and_true, Nat.add_sub_cancel' h2]
    exact (BitVec.getLsbD_eq_getElem hi).symm

theorem toNat_and_mask (x : ByteAddr) : (x &&& 0x1FFFFC).toNat = x.toNat / 4 * 4 := by
  have hx := x.isLt
  rw [and_mask_eq, BitVec.toNat_shiftLeft, BitVec.toNat_ushiftRight, Nat.shiftLeft_eq, Nat.shiftRight_eq_div_pow]
  omega

theorem append_toNat (h : BitVec 5) (l : Word) : (h ++ l).toNat = h.toNat * 0x10000 + l.toNat := by
  rw [BitVec.toNat_append, ← Nat.shiftLeft_add_eq_or_of_lt l.isLt, Nat.shiftLeft_eq]

theorem lowHalf_eq (base : ByteAddr) (v : Word) :
    (base.extractLsb' 16 5 ++ v) &&& 0x1FFFFC = BitVec.ofNat 21 (base.toNat / 0x10000 * 0x10000 + v.toNat / 4 * 4) := by
  have hv := v.isLt
  have hb := base.isLt
  apply BitVec.eq_of_toNat_eq
  rw [toNat_and_mask, append_toNat, BitVec.extractLsb'_toNat, BitVec.toNat_ofNat, Nat.shiftRight_eq_div_pow]
  omega

theorem highHalf_eq (base : ByteAddr) (v : Word) :
    v.extractLsb' 0 5 ++ base.extractLsb' 0 16 = BitVec.ofNat 21 (v.toNat % 32 * 0x10000 + base.toNat % 0x10000) := by
  apply BitVec.eq_of_toNat_eq
  rw [append_toNat, BitVec.extractLsb'_toNat, BitVec.extractLsb'_toNat, BitVec.toNat_ofNat]
  simp only [Nat.shiftRight_zero]
  omega

theorem formBase_eq (lo hi : Word) : formBase lo hi = BitVec.ofNat 21 (hi.toNat % 32 * 0x10000 + lo.toNat / 4 * 4) := by
  have hlo := lo.isLt
  apply BitVec.eq_of_toNat_eq
  rw [formBase, toNat_and_mask, append_toNat, BitVec.extractLsb'_toNat, BitVec.toNat_ofNat]
  simp only [Nat.shiftRight_zero]
  omega

theorem stagedPasses_iff (s : State) (v : Word) :
    let base := v.toNat * 0x10000 + s.scan.stagedLo.toNat
    let page := 0x1F8000 + s.pins.cps.toNat * 0x1000
    stagedPasses s v = true ↔ s.scan.stagedLo.toNat % 4 = 0 ∧ v.toNat ≤ 31 ∧ base + 4 * s.lines ≤ 0x200000 ∧
      (page + 0x1000 ≤ base ∨ base + 4 * s.lines ≤ page) := by
  dsimp only
  simp only [stagedPasses, aligned, tableHiAllowed, tableAllowed, Bool.and_eq_true, beq_iff_eq, decide_eq_true_eq,
    Bool.not_eq_true', Bool.and_eq_false_iff, decide_eq_false_iff_not, Nat.not_lt]
  rfl

/-! ### A write of a live field (R98, R99) -/

theorem stageLo_quiet (v : Word) {s : State} (h : s.ctl.istate.quiet = true) :
    stageLo v s = s.withScan { s.scan with
      stagedLo := v, stagedReady := false
      base := BitVec.ofNat 21 (s.scan.base.toNat / 0x10000 * 0x10000 + v.toNat / 4 * 4) } := by
  unfold stageLo; rw [if_pos h, lowHalf_eq]

theorem stageLo_live (v : Word) {s : State} (h : s.ctl.istate.quiet = false) :
    stageLo v s = s.withScan { s.scan with stagedLo := v, stagedReady := false } := by
  unfold stageLo; rw [h, if_neg Bool.false_ne_true]

theorem stageHi_quiet (v : Word) {s : State} (h : s.ctl.istate.quiet = true) :
    stageHi v s = s.withScan { s.scan with
      stagedHi := v, stagedReady := false
      base := BitVec.ofNat 21 (v.toNat % 32 * 0x10000 + s.scan.base.toNat % 0x10000) } := by
  unfold stageHi; rw [if_pos h, highHalf_eq]

theorem stageHi_live (v : Word) {s : State} (h : s.ctl.istate.quiet = false) :
    stageHi v s = raiseIf (!stagedPasses s v) .refused
      (s.withScan { s.scan with stagedHi := v, stagedReady := stagedPasses s v }) := by
  unfold stageHi; rw [h, if_neg Bool.false_ne_true]

@[simp] theorem raiseIf_ptr (c : Bool) (e : Event) (s : State) : (raiseIf c e s).ctl.ptr = s.ctl.ptr := by
  unfold raiseIf; split <;> rfl

theorem stageHi_ptr (v : Word) (s : State) : (stageHi v s).ctl.ptr = s.ctl.ptr := by
  unfold stageHi
  split
  · rfl
  · exact raiseIf_ptr _ _ _

theorem stagedPasses_storeField (v hi : Word) {s : State} (h : s.ctl.ptr ≠ 1) :
    stagedPasses (storeField v s) hi = stagedPasses s hi := by
  have hlines : (storeField v s).lines = s.lines :=
    congrArg BitVec.toNat (Vector.getElem_set_ne s.ctl.ptr.isLt (by decide) fun hv => h (Fin.ext hv))
  unfold stagedPasses
  rw [hlines]
  rfl

theorem advancePtr_to {s : State} {p : Fin 17} (h : nextPtr s.ctl.ptr = p) :
    advancePtr s = s.withCtl { s.ctl with ptr := p } := by
  unfold advancePtr; rw [h]

/-- A full word written to TABLE_LO, in any state (R98, R160). -/
theorem exec_setupPortWrite_lo {s : State} (v : Word) (hr : s.pins.reset = false) (hp : s.ctl.ptr = 6) :
    exec (.setupPortWrite v ⟨true, true⟩) s = .next ((stageLo v (storeField v s)).withCtl { (storeField v s).ctl with ptr := 7 }) := by
  rw [exec_setupPortWrite v _ hr, setupWritten_stored v rfl (.inl (by rw [hp]; rfl)), fieldStored, if_pos hp,
    advancePtr_to (p := 7) (by rw [stageLo_ctl]; exact congrArg nextPtr hp)]
  rfl

/-- A full word written to TABLE_HI, in any state (R98, R99, R160). -/
theorem exec_setupPortWrite_hi {s : State} (v : Word) (hr : s.pins.reset = false) (hp : s.ctl.ptr = 7) :
    exec (.setupPortWrite v ⟨true, true⟩) s = .next ((stageHi v (storeField v s)).withCtl { (stageHi v (storeField v s)).ctl with ptr := 8 }) := by
  rw [exec_setupPortWrite v _ hr, setupWritten_stored v rfl (.inl (by rw [hp]; rfl)), fieldStored,
    if_neg (by rw [hp]; decide), if_pos hp, advancePtr_to (p := 8) (by rw [stageHi_ptr]; exact congrArg nextPtr hp)]

/-! ### The obligation -/

/-- Settles O50: TABLE_LO and TABLE_HI, in the quiet states and in the others. -/
theorem tableBaseIsStaged : Obligations.TableBaseIsStaged := by
  intro s v hr
  have hpasses := stagedPasses_iff s v
  dsimp only at hpasses ⊢
  rw [← quiet_iff, ← hpasses, Bool.not_eq_true, Bool.not_eq_true]
  refine ⟨fun hp hq => ?_, fun hp hq => ?_, fun hp hq => ?_, fun hp hq hok => ?_, fun hp hq hok => ?_⟩
  · rw [exec_setupPortWrite_lo v hr hp, stageLo_quiet (s := storeField v s) v hq]
    rfl
  · rw [exec_setupPortWrite_lo v hr hp, stageLo_live (s := storeField v s) v hq]
    rfl
  · rw [exec_setupPortWrite_hi v hr hp, stageHi_quiet (s := storeField v s) v hq]
    rfl
  · rw [exec_setupPortWrite_hi v hr hp, stageHi_live (s := storeField v s) v hq,
      stagedPasses_storeField v v (by rw [hp]; decide), hok]
    rfl
  · rw [exec_setupPortWrite_hi v hr hp, stageHi_live (s := storeField v s) v hq,
      stagedPasses_storeField v v (by rw [hp]; decide), hok]
    rfl

end Sys2Proof.Machine
end

section
/-! The Block Mover's commands and the end of a step (R104 to R107, R111, R114, R115): O32, O33, O34 and O36. -/

namespace Sys2Proof.Machine

/-! ### Argument addresses and ranges (R106, R107, 10.3) -/

theorem toNat_argAddr {lo hi : Word} (h : hi.toNat ≤ 15) : (argAddr lo hi).toNat = hi.toNat * 0x10000 + lo.toNat := by
  unfold argAddr
  rw [BitVec.toNat_append, ← Nat.shiftLeft_add_eq_or_of_lt lo.isLt, Nat.shiftLeft_eq, BitVec.extractLsb'_toNat,
    Nat.shiftRight_zero, Nat.mod_eq_of_lt (Nat.lt_succ_of_le h)]

/-- A range is refused where it leaves memory or meets the control page (R106). -/
theorem rangeAllowed_false_iff (cps : BitVec 3) (first : WordAddr) (length : Word) :
    rangeAllowed cps first length = false ↔ 0x100000 < first.toNat + length.toNat ∨
      (first.toNat < 0xFC000 + cps.toNat * 0x800 + 0x800 ∧ 0xFC000 + cps.toNat * 0x800 < first.toNat + length.toNat) := by
  have hbase : controlBase cps / 2 = 0xFC000 + cps.toNat * 0x800 := by
    unfold controlBase Config.controlBase0 Config.controlBytes
    omega
  have hhalf : Config.controlBytes / 2 = 0x800 := rfl
  have hwords : Config.memoryWords = 0x100000 := rfl
  simp only [rangeAllowed, hbase, hhalf, hwords, Bool.and_eq_false_iff, Bool.not_eq_false', Bool.and_eq_true, decide_eq_true_eq,
    decide_eq_false_iff_not, Nat.not_le]

/-- The range of an operation, named by two argument latches, is refused (R106). -/
theorem badRange_iff {cps : BitVec 3} {lo hi length : Word} (h : hi.toNat ≤ 15) (hl : length.toNat ≠ 0) :
    (!rangeAllowed cps (argAddr lo hi) length) = true ↔ 0xFFFFF < hi.toNat * 0x10000 + lo.toNat + length.toNat - 1 ∨
      (hi.toNat * 0x10000 + lo.toNat < 0xFC000 + cps.toNat * 0x800 + 0x800 ∧
        0xFC000 + cps.toNat * 0x800 < hi.toNat * 0x10000 + lo.toNat + length.toNat) := by
  have hpos := Nat.pos_of_ne_zero hl
  rw [Bool.not_eq_true', rangeAllowed_false_iff, toNat_argAddr h]
  omega

theorem eq_zero_iff_toNat {w : Word} : w = 0 ↔ w.toNat = 0 := ⟨fun h => by rw [h]; rfl, fun h => BitVec.eq_of_toNat_eq h⟩

/-- An entry meets the words of an operation (R107). -/
theorem conflicts_iff {q : List Entry} {first : WordAddr} {length : Word} (hl : length.toNat ≠ 0) :
    conflicts q (wordsFrom first length) = true ↔
      ∃ e ∈ q, first.toNat < e.block.toNat * 8 + 8 ∧ e.block.toNat * 8 < first.toNat + length.toNat := by
  have hmeets : ∀ b : BlockNo, (wordsFrom first length).meets b = true ↔
      first.toNat < b.toNat * 8 + 8 ∧ b.toNat * 8 < first.toNat + length.toNat := fun b => by
    have hpos := Nat.pos_of_ne_zero hl
    simp only [WordRange.meets, Bool.and_eq_true, decide_eq_true_eq]
    simp only [wordsFrom]
    omega
  simp only [conflicts, List.any_eq_true, hmeets]

/-! ### FILL and COPY by the result of their checks (R104 to R106) -/

theorem exec_fill {s : State} (h : s.pins.reset = false) : exec .fill s = .next (settle (fill s)) :=
  congrArg (Host.Outcome.next ∘ settle) (decoded_of_reset_false _ h)

theorem exec_copy {s : State} (h : s.pins.reset = false) : exec .copy s = .next (settle (copy s)) :=
  congrArg (Host.Outcome.next ∘ settle) (decoded_of_reset_false _ h)

theorem exec_movestop {s : State} (h : s.pins.reset = false) : exec .movestop s = .next (settle (movestop s)) :=
  congrArg (Host.Outcome.next ∘ settle) (decoded_of_reset_false _ h)

theorem fill_of_refusal {s : State} {r : Result} (h : fillRefusal s = some r) : fill s = recordCommand 0x5320 r s := by
  unfold fill; rw [h]; rfl

theorem fill_of_accepted {s : State} (h : fillRefusal s = none) :
    fill s = recordCommand 0x5320 .started (s.withMover (fillRecord s)) := by
  unfold fill; rw [h]; rfl

theorem copy_of_refusal {s : State} {r : Result} (h : copyRefusal s = some r) : copy s = recordCommand 0x5321 r s := by
  unfold copy; rw [h]; rfl

theorem copy_of_accepted {s : State} (h : copyRefusal s = none) :
    copy s = recordCommand 0x5321 .started (s.withMover (copyRecord s)) := by
  unfold copy; rw [h]; rfl

/-- The checks of a command are made in order: each assumes that those before it pass. -/
theorem or_congr_of_not {a b c : Prop} (h : ¬a → (b ↔ c)) : a ∨ b ↔ a ∨ c :=
  (Classical.em a).elim (fun ha => ⟨fun _ => .inl ha, fun _ => .inl ha⟩) fun hn => or_congr Iff.rfl (h hn)

/-- The argument check of FILL, in numbers (R106). -/
theorem fillBadArg_iff (s : State) :
    let hi := s.ctl.args.get 1
    let length := s.ctl.args.get 2
    let first := hi.toNat * 0x10000 + (s.ctl.args.get 0).toNat
    let page := 0xFC000 + s.pins.cps.toNat * 0x800
    (15 < hi.toNat ∨ length = 0 ∨ (!rangeAllowed s.pins.cps (argAddr (s.ctl.args.get 0) hi) length) = true) ↔
      (15 < hi.toNat ∨ length.toNat = 0 ∨ 0xFFFFF < first + length.toNat - 1 ∨
        (first < page + 0x800 ∧ page < first + length.toNat)) := by
  dsimp only
  refine or_congr_of_not fun hhi => ?_
  rw [or_congr eq_zero_iff_toNat Iff.rfl]
  exact or_congr_of_not fun hl => badRange_iff (Nat.le_of_not_lt hhi) hl

/-- The argument check of COPY, in numbers (R106). -/
theorem copyBadArg_iff (s : State) :
    let arg := fun i : Fin 6 => s.ctl.args.get i
    let length := (arg 4).toNat
    let src := (arg 1).toNat * 0x10000 + (arg 0).toNat
    let dst := (arg 3).toNat * 0x10000 + (arg 2).toNat
    let page := 0xFC000 + s.pins.cps.toNat * 0x800
    (15 < (arg 1).toNat ∨ 15 < (arg 3).toNat ∨ arg 4 = 0 ∨ (!rangeAllowed s.pins.cps (argAddr (arg 2) (arg 3)) (arg 4)) = true ∨
        (!rangeAllowed s.pins.cps (argAddr (arg 0) (arg 1)) (arg 4)) = true) ↔
      (15 < (arg 1).toNat ∨ 15 < (arg 3).toNat ∨ length = 0 ∨ 0xFFFFF < dst + length - 1 ∨ 0xFFFFF < src + length - 1 ∨
        (dst < page + 0x800 ∧ page < dst + length) ∨ (src < page + 0x800 ∧ page < src + length)) := by
  dsimp only
  refine or_congr_of_not fun h1 => or_congr_of_not fun h3 => ?_
  rw [or_congr eq_zero_iff_toNat Iff.rfl]
  refine or_congr_of_not fun hl => ?_
  rw [badRange_iff (Nat.le_of_not_lt h3) hl, badRange_iff (Nat.le_of_not_lt h1) hl, or_or_or_comm, or_assoc]

/-- The direction of a COPY of at least one word, in numbers (R105). -/
theorem copyDir_eq {src dst : WordAddr} {length : Word} :
    copyDir src dst length = if src.toNat < dst.toNat ∧ dst.toNat < src.toNat + length.toNat then .down else .up := by
  have hoverlap : (src.toNat < dst.toNat ∧ rangesOverlap (wordsFrom src length) (wordsFrom dst length) = true) ↔
      (src.toNat < dst.toNat ∧ dst.toNat < src.toNat + length.toNat) := by
    simp only [rangesOverlap, Bool.and_eq_true, decide_eq_true_eq]
    simp only [wordsFrom]
    omega
  exact ite_congr (propext hoverlap) (fun _ => rfl) fun _ => rfl

/-! ### MOVESTOP and the end of a step by their cases (R111, R114, R115) -/

theorem passThrough_iff (i : IState) : i.passThrough = true ↔ i ≠ .running ∧ (!i.isDraining) = true := by
  cases i with
  | draining target after => exact iff_of_false Bool.noConfusion fun h => Bool.noConfusion h.2
  | passive | starting | running | dormant => decide

theorem movestop_passThrough {s : State} (h : s.ctl.istate.passThrough = true) :
    movestop s = recordCommand 0x5322 .badState s := by
  unfold movestop; rw [if_pos ((passThrough_iff _).1 h)]; rfl

theorem movestop_sharing {s : State} (h : s.ctl.istate.passThrough = false) :
    movestop s = if !s.mover.active then recordCommand 0x5322 .done s
      else if stepInProgress s then recordCommand 0x5322 .started (s.withMover { s.mover with stopReq := true })
      else recordCommand 0x5322 .started (moverEnds .moveAbort s) := by
  unfold movestop; rw [if_neg fun hc => Bool.eq_false_iff.1 h ((passThrough_iff _).2 hc)]; rfl

theorem stepEnded_eq (k : Nat) (s : State) :
    stepEnded k s =
      if s.mover.length.toNat ≤ (s.mover.advance k).done.toNat then moverEnds .moveDone (s.withMover (s.mover.advance k))
      else if s.mover.stopReq then moverEnds .moveAbort (s.withMover (s.mover.advance k))
      else noteWait false false (s.withMover (s.mover.advance k)) := rfl

/-! ### The obligations -/

/-- Settles O32: FILL, by the first check that fails. -/
theorem fillChecksAndStarts : Obligations.FillChecksAndStarts := by
  intro s hr
  have hbad := fillBadArg_iff s
  dsimp only at hbad ⊢
  rw [exec_fill hr, ← hbad]
  refine ⟨fun hi => ?_, fun hi ha => ?_, fun hi ha hb => ?_, fun hi ha hb hc => ?_, fun hi ha hb hc => ?_⟩
  · rw [fill_of_refusal (r := .badState)]
    unfold fillRefusal
    rw [if_pos hi]
  · rw [fill_of_refusal (r := .busy)]
    unfold fillRefusal
    rw [if_neg (Classical.not_not.2 hi), if_pos ha]
  · rw [fill_of_refusal (r := .badArg)]
    unfold fillRefusal
    rw [if_neg (Classical.not_not.2 hi), if_neg (Bool.eq_false_iff.1 ha), if_pos hb]
  all_goals
    have hlow := Nat.le_of_not_lt (not_or.1 hb).1
    have hlen := (not_congr eq_zero_iff_toNat).1 (not_or.1 (not_or.1 hb).2).1
    rw [← toNat_argAddr hlow, ← conflicts_iff hlen] at hc
  · rw [fill_of_refusal (r := .conflict)]
    unfold fillRefusal
    rw [if_neg (Classical.not_not.2 hi), if_neg (Bool.eq_false_iff.1 ha), if_neg hb, if_pos hc]
  · rw [fill_of_accepted]
    · rfl
    · unfold fillRefusal
      rw [if_neg (Classical.not_not.2 hi), if_neg (Bool.eq_false_iff.1 ha), if_neg hb, if_neg hc]

/-- Settles O33: COPY, by the first check that fails. -/
theorem copyChecksAndStarts : Obligations.CopyChecksAndStarts := by
  intro s hr
  have hbad := copyBadArg_iff s
  dsimp only at hbad ⊢
  rw [exec_copy hr, ← hbad]
  refine ⟨fun hi => ?_, fun hi ha => ?_, fun hi ha hb => ?_, fun hi ha hb hc => ?_, fun hi ha hb hc => ?_⟩
  · rw [copy_of_refusal (r := .badState)]
    unfold copyRefusal
    rw [if_pos hi]
  · rw [copy_of_refusal (r := .busy)]
    unfold copyRefusal
    rw [if_neg (Classical.not_not.2 hi), if_pos ha]
  · rw [copy_of_refusal (r := .badArg)]
    unfold copyRefusal
    rw [if_neg (Classical.not_not.2 hi), if_neg (Bool.eq_false_iff.1 ha), if_pos hb]
  all_goals
    obtain ⟨hsrc, hdst, hzero, _⟩ := by simpa only [not_or] using hb
    have hlen := (not_congr eq_zero_iff_toNat).1 hzero
    simp only [and_or_left, exists_or, ← toNat_argAddr (Nat.le_of_not_lt hsrc), ← toNat_argAddr (Nat.le_of_not_lt hdst),
      ← conflicts_iff hlen, ← Bool.or_eq_true] at hc
  · rw [copy_of_refusal (r := .conflict)]
    unfold copyRefusal
    rw [if_neg (Classical.not_not.2 hi), if_neg (Bool.eq_false_iff.1 ha), if_neg hb, if_pos hc]
  · rw [copy_of_accepted, ← toNat_argAddr (Nat.le_of_not_lt hsrc), ← toNat_argAddr (Nat.le_of_not_lt hdst), ← copyDir_eq]
    · rfl
    · unfold copyRefusal
      rw [if_neg (Classical.not_not.2 hi), if_neg (Bool.eq_false_iff.1 ha), if_neg hb, if_neg hc]

/-- Settles O34: MOVESTOP in each phase of the mover. -/
theorem movestopEndsTheOperation : Obligations.MovestopEndsTheOperation := by
  intro s hr
  rw [exec_movestop hr]
  refine ⟨fun hp => ?_, fun hp ha => ?_, fun hp ha ht => ?_, fun hp ha ht => ?_⟩
  · rw [movestop_passThrough hp]
  · rw [movestop_sharing hp, if_pos (by rw [ha]; rfl)]
  · rw [movestop_sharing hp, if_neg (by rw [ha]; decide), if_pos (show stepInProgress s = true from ht)]
  · rw [movestop_sharing hp, if_neg (by rw [ha]; decide), if_neg (show ¬stepInProgress s = true from Bool.eq_false_iff.1 ht)]
    rfl

/-- Settles O36: after `k` more words the operation is complete, stopped, or goes on. -/
theorem stepEndCompletesStopsOrGoesOn : Obligations.StepEndCompletesStopsOrGoesOn := by
  intro s k hk
  dsimp only
  rw [stepEnded_eq, Mover.advance_done hk]
  refine ⟨fun hd => ?_, fun hd hs => ?_, fun hd hs => ?_⟩
  · rw [if_pos (Nat.le_of_eq hd.symm)]
    rfl
  · rw [if_neg (Nat.not_le.2 hd), if_pos hs]
    rfl
  · rw [if_neg (Nat.not_le.2 hd), if_neg (Bool.eq_false_iff.1 hs)]
    rfl

end Sys2Proof.Machine
end

section
/-! The Scan Clock Unit (R120 to R134): O37, O38 and O39. -/

namespace Sys2Proof.Machine

/-! ### Sources by their codes (R120) -/

theorem ClockSource.external_iff (c : ClockSource) : c.external = true ↔ c = .ext ∨ c = .extM := by
  cases c <;> decide

theorem ClockSource.multiplied_iff (c : ClockSource) : c.multiplied = true ↔ c = .rcfM ∨ c = .extM := by
  cases c <;> decide

theorem ClockSource.external_iff_code (c : ClockSource) : c.external = true ↔ c.code.toNat = 4 ∨ c.code.toNat = 6 := by
  cases c <;> decide

theorem ClockSource.multiplied_iff_code (c : ClockSource) : c.multiplied = true ↔ c.code.toNat = 5 ∨ c.code.toNat = 6 := by
  cases c <;> decide

theorem ClockSource.code_mem (c : ClockSource) : c.code.toNat ∈ [0, 1, 2, 4, 5, 6] := by
  cases c <;> decide

theorem sourceOfCode_code (c : ClockSource) : sourceOfCode c.code = some c := by
  cases c <;> rfl

theorem code_of_sourceOfCode {w : Word} {c : ClockSource} (h : sourceOfCode w = some c) : c.code = w :=
  beq_iff_eq.1 (List.find?_some (p := fun d : ClockSource => d.code == w) h)

/-- A word whose number is that of a source's code names that source (R120). -/
theorem sourceOfCode_of_toNat {w : Word} {c : ClockSource} (h : w.toNat = c.code.toNat) : sourceOfCode w = some c := by
  rw [BitVec.eq_of_toNat_eq h, sourceOfCode_code]

theorem ClockSource.code_injective {c d : ClockSource} (h : c.code.toNat = d.code.toNat) : c = d :=
  Option.some.inj ((sourceOfCode_code c).symm.trans (sourceOfCode_of_toNat h))

theorem sourceOfCode_none_iff (w : Word) : sourceOfCode w = none ↔ ¬ w.toNat ∈ [0, 1, 2, 4, 5, 6] := by
  constructor
  · intro h hmem
    have hcode : ∃ c : ClockSource, w.toNat = c.code.toNat := by
      simp only [List.mem_cons, List.not_mem_nil, or_false] at hmem
      rcases hmem with hw | hw | hw | hw | hw | hw
      · exact ⟨.rcb, hw⟩
      · exact ⟨.rcf, hw⟩
      · exact ⟨.rcs, hw⟩
      · exact ⟨.ext, hw⟩
      · exact ⟨.rcfM, hw⟩
      · exact ⟨.extM, hw⟩
    obtain ⟨c, hc⟩ := hcode
    exact Option.some_ne_none c ((sourceOfCode_of_toNat hc).symm.trans h)
  · intro h
    refine Option.eq_none_iff_forall_ne_some.2 fun c hc => h ?_
    rw [← code_of_sourceOfCode hc]
    exact c.code_mem

/-- The factor is out of range for a multiplied target (R123 check 3). -/
theorem badFactor_iff (c : ClockSource) (f : Word) :
    badFactor c f = true ↔ (c.code.toNat = 5 ∧ ¬ (2 ≤ f.toNat ∧ f.toNat ≤ 4)) ∨
      (c.code.toNat = 6 ∧ ¬ (2 ≤ f.toNat ∧ f.toNat ≤ 16)) := by
  cases c <;> simp [badFactor, ClockSource.code] <;> omega

/-! ### The multiplier and the clock unit by their cases (R121, R126, R129, R131, R132) -/

theorem Multiplier.turnOff_if (m : Multiplier) (b : Bool) :
    (if b then m.turnOff else m) = { m with state := if b then .off else m.state } := by
  cases b <;> rfl

theorem Clock.applied_eq (c : Clock) (target : ClockSource) :
    c.applied target = { c with
      source := target, cond := .ready, switch := none, timer := none
      mult := { c.mult with state := if target = .rcfM ∨ target = .extM then c.mult.state else .off } } := by
  cases target <;> rfl

theorem fallToRcb_eq (c : Clock) :
    fallToRcb c = { c with
      source := .rcb, cond := .ready, timer := if c.isChecking then none else c.timer
      mult := { c.mult with state := if c.source.multiplied then .off else c.mult.state } } := by
  unfold fallToRcb
  rw [Multiplier.turnOff_if]

theorem abandoned_eq (p : PendingSwitch) (c : Clock) :
    abandoned p c = { c with
      switch := none, timer := none, mult := { c.mult with state := if p.target.multiplied then .off else c.mult.state } } := by
  unfold abandoned
  rw [Multiplier.turnOff_if]

theorem Clock.xclkProven_ext (c : Clock) : c.xclkProven .ext = true ↔ c.source = .extM ∧ c.cond = .ready := by
  simp [Clock.xclkProven, and_comm]

theorem Clock.xclkProven_extM (c : Clock) : c.xclkProven .extM = true ↔ c.source = .ext ∧ c.cond = .ready := by
  simp [Clock.xclkProven, and_comm]

theorem Clock.not_checking_iff (c : Clock) : c.isChecking = false ↔ c.cond = .ready ∨ c.cond = .stopped := by
  unfold Clock.isChecking
  cases c.cond <;> simp

theorem Clock.checking_of_cond {c : Clock} {k : CheckKind} (h : c.cond = .checking k) : c.isChecking = true := by
  unfold Clock.isChecking; rw [h]

/-! ### CLKSEL by its checks (R123, R125) -/

theorem exec_clksel {s : State} (h : s.pins.reset = false) : exec .clksel s = .next (clksel s) :=
  congrArg Host.Outcome.next (decoded_of_reset_false _ h)

/-- The state and clock checks of CLKSEL pass: the switch of R123 checks 3 to 6 is examined. -/
theorem clksel_examined {s : State} (hi : s.ctl.istate = .passive ∨ s.ctl.istate = .running) (hs : s.clock.switch = none)
    (hc : s.clock.isChecking = false) :
    (sourceOfCode (s.ctl.args.get 0) = none → clksel s = recordCommand 0x5330 .badArg s) ∧
    (∀ target, sourceOfCode (s.ctl.args.get 0) = some target →
      (∀ r, clkselRefusal s target = some r → clksel s = recordCommand 0x5330 r s) ∧
      (clkselRefusal s target = none → clksel s = applyIfPassive (recordCommand 0x5330 .started
        (s.withClock (s.clock.accept target (s.ctl.args.get 1)))))) := by
  have hstate : ¬(s.ctl.istate ≠ .passive ∧ s.ctl.istate ≠ .running) := fun h => hi.elim h.1 h.2
  have hfree : ¬(s.clock.switch.isSome || s.clock.isChecking) = true := by
    rw [hs, hc]
    exact Bool.false_ne_true
  unfold clksel
  rw [if_neg hstate, if_neg hfree]
  refine ⟨fun h => ?_, fun target h => ⟨fun r hr => ?_, fun hr => ?_⟩⟩
  · rw [h]
    rfl
  · rw [h]
    dsimp only
    rw [hr]
    rfl
  · rw [h]
    dsimp only
    rw [hr]
    rfl

/-- The pending switch that CLKSEL makes; in PASSIVE one that is READY is applied at once (R125, R128). -/
theorem applyIfPassive_started (s : State) (c : Clock) :
    applyIfPassive (recordCommand 0x5330 .started (s.withClock c)) =
      if s.ctl.istate = .passive then applyReadySwitch (recordCommand 0x5330 .started (s.withClock c))
      else recordCommand 0x5330 .started (s.withClock c) := by
  unfold applyIfPassive
  rw [recordCommand_istate, State.withClock_ctl]

/-- The checks of CLKSEL pass for a target other than the current source (R123). -/
theorem clkselRefusal_none {s : State} {target : ClockSource} (hf : badFactor target (s.ctl.args.get 1) = false)
    (he : ¬(target.external && eventSet s.ctl.events .clkFail) = true)
    (hm : ¬(target.multiplied && s.clock.source.multiplied) = true) (hne : target ≠ s.clock.source) :
    clkselRefusal s target = none := by
  unfold clkselRefusal
  rw [if_neg (Bool.eq_false_iff.1 hf), if_neg he, if_neg hm, if_neg hne]

theorem clksel_busy {c : Clock} (h : ¬(c.switch = none ∧ c.isChecking = false)) : (c.switch.isSome || c.isChecking) = true := by
  rcases hs : c.switch with _ | p
  · exact Bool.of_not_eq_false fun hc => h ⟨hs, hc⟩
  · rfl

/-- The checks 3 to 5 of CLKSEL for the target that ARG0 names, by the code (R123). -/
theorem clksel_target {s : State} {target : ClockSource} (h : sourceOfCode (s.ctl.args.get 0) = some target) :
    let code := (s.ctl.args.get 0).toNat
    let factor := (s.ctl.args.get 1).toNat
    (badFactor target (s.ctl.args.get 1) = true ↔
      (code = 5 ∧ ¬ (2 ≤ factor ∧ factor ≤ 4)) ∨ (code = 6 ∧ ¬ (2 ≤ factor ∧ factor ≤ 16))) ∧
    ((target.external && eventSet s.ctl.events .clkFail) = true ∨ (target.multiplied && s.clock.source.multiplied) = true ↔
      ((code = 4 ∨ code = 6) ∧ eventSet s.ctl.events .clkFail = true) ∨
        ((code = 5 ∨ code = 6) ∧ s.clock.source.multiplied = true)) := by
  dsimp only
  rw [← code_of_sourceOfCode h, Bool.and_eq_true, Bool.and_eq_true, ClockSource.external_iff_code,
    ClockSource.multiplied_iff_code target]
  exact ⟨badFactor_iff _ _, Iff.rfl⟩

/-! ### Readiness, lock, timeout and loss by their cases (R126, R127, R130 to R134) -/

theorem xclkContinuityReady_check_ext {s : State} (hr : s.pins.reset = false) (hc : s.clock.isChecking = true)
    (hs : s.clock.source = .ext) : xclkContinuityReady s = checkReady s := by
  unfold xclkContinuityReady
  rw [if_neg (Bool.eq_false_iff.1 hr), if_pos hc, hs]

theorem xclkContinuityReady_check_extM {s : State} (hr : s.pins.reset = false) (hc : s.clock.isChecking = true)
    (hs : s.clock.source = .extM) (hm : s.clock.mult.state = .off) : xclkContinuityReady s = startXclkLock s := by
  unfold xclkContinuityReady
  rw [if_neg (Bool.eq_false_iff.1 hr), if_pos hc, hs]
  exact if_pos hm

theorem xclkContinuityReady_switch_ext {s : State} (hr : s.pins.reset = false) (hc : s.clock.isChecking = false) {f : BitVec 5}
    (hs : s.clock.switch = some ⟨.ext, f, .waitReady⟩) : xclkContinuityReady s = switchReady ⟨.ext, f, .waitReady⟩ s := by
  unfold xclkContinuityReady
  rw [if_neg (Bool.eq_false_iff.1 hr), if_neg (Bool.eq_false_iff.1 hc), hs]

theorem xclkContinuityReady_switch_extM {s : State} (hr : s.pins.reset = false) (hc : s.clock.isChecking = false) {f : BitVec 5}
    (hs : s.clock.switch = some ⟨.extM, f, .waitReady⟩) (hm : s.clock.mult.state = .off) :
    xclkContinuityReady s = startXclkLock s := by
  unfold xclkContinuityReady
  rw [if_neg (Bool.eq_false_iff.1 hr), if_neg (Bool.eq_false_iff.1 hc), hs]
  exact if_pos hm

theorem multiplierLocked_check {s : State} (hm : s.clock.mult.state = .locking) (hc : s.clock.isChecking = true) :
    multiplierLocked s = checkReady (s.withClock { s.clock with mult := { s.clock.mult with state := .locked } }) :=
  (if_neg (Classical.not_not.2 hm)).trans (if_pos hc)

theorem multiplierLocked_switch {s : State} (hm : s.clock.mult.state = .locking) (hc : s.clock.isChecking = false)
    {target : ClockSource} {f : BitVec 5} (ht : target.multiplied = true)
    (hs : s.clock.switch = some ⟨target, f, .waitReady⟩) :
    multiplierLocked s = switchReady ⟨target, f, .waitReady⟩
      (s.withClock { s.clock with mult := { s.clock.mult with state := .locked } }) := by
  refine (if_neg (Classical.not_not.2 hm)).trans ((if_neg (Bool.eq_false_iff.1 hc)).trans ?_)
  rw [State.withClock_clock, hs]
  exact if_pos ht

theorem readinessTimeout_strap {s : State} {n : BitVec 14} (ht : s.clock.timer = some n) (hc : s.clock.cond = .checking .strap) :
    readinessTimeout s = raise .clkFail (s.withClock (fallToRcb s.clock)) := by
  unfold readinessTimeout
  rw [if_neg (by rw [ht]; exact Bool.false_ne_true), hc]

theorem readinessTimeout_restart {s : State} {n : BitVec 14} (ht : s.clock.timer = some n)
    (hc : s.clock.cond = .checking .restart) : readinessTimeout s = raise .clkAbort (s.withClock (fallToRcb s.clock)) := by
  unfold readinessTimeout
  rw [if_neg (by rw [ht]; exact Bool.false_ne_true), hc]

theorem readinessTimeout_waiting {s : State} {n : BitVec 14} (ht : s.clock.timer = some n) (hc : s.clock.isChecking = false)
    {target : ClockSource} {f : BitVec 5} (hs : s.clock.switch = some ⟨target, f, .waitReady⟩) :
    readinessTimeout s = abandonSwitch ⟨target, f, .waitReady⟩ s := by
  unfold readinessTimeout
  rw [if_neg (by rw [ht]; exact Bool.false_ne_true), hs]
  rcases (Clock.not_checking_iff _).1 hc with h | h <;> rw [h]

theorem readinessTimeout_ready {s : State} {n : BitVec 14} (ht : s.clock.timer = some n) (hc : s.clock.isChecking = false)
    {target : ClockSource} {f : BitVec 5} (hs : s.clock.switch = some ⟨target, f, .ready⟩) : readinessTimeout s = s := by
  unfold readinessTimeout
  rw [if_neg (by rw [ht]; exact Bool.false_ne_true), hs]
  rcases (Clock.not_checking_iff _).1 hc with h | h <;> rw [h]

theorem Clock.usesXclk_iff (c : Clock) : c.usesXclk = true ↔ (c.source = .ext ∨ c.source = .extM) ∧ c.cond ≠ .stopped := by
  rw [Clock.usesXclk, Bool.and_eq_true, ClockSource.external_iff, Bool.not_eq_true', beq_eq_false_iff_ne]

theorem failover_of_uses {s : State} (h : s.clock.usesXclk = true) :
    failover s = raise .clkFail (s.withClock (fallToRcb s.clock)) := if_pos h

theorem failover_of_not_uses {s : State} (h : ¬s.clock.usesXclk = true) : failover s = s := if_neg h

theorem abandonExternal_none {s : State} (h : s.clock.switch = none) : abandonExternal s = s := by
  unfold abandonExternal; rw [h]

theorem abandonExternal_some {s : State} {p : PendingSwitch} (h : s.clock.switch = some p) :
    abandonExternal s = if p.target.external then abandonSwitch p s else s := by
  unfold abandonExternal; rw [h]

/-- A loss that some user of XCLK sees (R130). -/
theorem lossOfXclk_watched {s : State} (hr : s.pins.reset = false)
    (h : s.clock.usesXclk = true ∨ s.clock.switchExternal = true) : lossOfXclk s = abandonExternal (failover s) := by
  unfold lossOfXclk xclkWatched
  rw [if_pos (by rw [hr, Bool.not_false, Bool.true_and, Bool.or_eq_true]; exact h)]

/-- The loss ends the use of XCLK by the current source and abandons no switch (R131, R133, R134). -/
theorem lossOfXclk_failover {s : State} (hr : s.pins.reset = false) (hu : s.clock.usesXclk = true)
    (hs : s.clock.switch = none ∨ ∃ p, s.clock.switch = some p ∧ p.target ≠ .ext ∧ p.target ≠ .extM) :
    lossOfXclk s = raise .clkFail (s.withClock (fallToRcb s.clock)) := by
  rw [lossOfXclk_watched hr (.inl hu), failover_of_uses hu]
  rcases hs with hs | ⟨p, hs, hne⟩
  · exact abandonExternal_none hs
  · exact (abandonExternal_some (s := raise .clkFail (s.withClock (fallToRcb s.clock))) (p := p) hs).trans
      (if_neg fun he => ((ClockSource.external_iff _).1 he).elim hne.1 hne.2)

/-! ### The obligations -/

/-- Settles O37: CLKSEL by its checks, then by its target. -/
theorem clkselChecksAndMakesASwitch : Obligations.ClkselChecksAndMakesASwitch := by
  intro s hr
  dsimp only
  rw [exec_clksel hr]
  refine ⟨fun hi => ?_, fun hi hfree => ?_, fun hi hfree hbad => ?_, fun hi hfree hbad hsw => ?_,
    fun hi hfree hbad hsw hlt hcode => ?_, fun hi hfree target htarget hne => ?_, fun hi hfree hsw hcode hne => ?_,
    fun hi hfree hbad hsw hcode => ?_, fun hi hfree hbad hsw hcode => ?_⟩
  · unfold clksel
    rw [if_pos (not_or.1 hi)]
    rfl
  · unfold clksel
    rw [if_neg fun h => hi.elim h.1 h.2, if_pos (clksel_busy hfree)]
    rfl
  · rcases htarget : sourceOfCode (s.ctl.args.get 0) with _ | target
    · rw [(clksel_examined hi hfree.1 hfree.2).1 htarget]
    · have hfactor : badFactor target (s.ctl.args.get 1) = true := by
        rw [badFactor_iff, code_of_sourceOfCode htarget]
        exact hbad.resolve_left (Classical.not_not.2 (code_of_sourceOfCode htarget ▸ target.code_mem))
      rw [((clksel_examined hi hfree.1 hfree.2).2 _ htarget).1 .badArg (by unfold clkselRefusal; rw [if_pos hfactor])]
  · obtain ⟨target, htarget⟩ := Option.ne_none_iff_exists'.1 fun h => hbad (.inl ((sourceOfCode_none_iff _).1 h))
    obtain ⟨hfactor, hrefused⟩ := clksel_target (s := s) htarget
    rw [((clksel_examined hi hfree.1 hfree.2).2 _ htarget).1 .badSwitch]
    unfold clkselRefusal
    rw [if_neg fun h => hbad (.inr (hfactor.1 h))]
    split
    · rfl
    · rename_i he
      rw [if_pos ((hrefused.2 hsw).resolve_left he)]
  · have htarget := sourceOfCode_of_toNat hcode
    obtain ⟨hfactor, hrefused⟩ := clksel_target (s := s) htarget
    rw [((clksel_examined hi hfree.1 hfree.2).2 _ htarget).1 .done]
    unfold clkselRefusal
    rw [if_neg fun h => hbad (.inr (hfactor.1 h)), if_neg fun h => hsw (hrefused.1 (.inl h)),
      if_neg fun h => hsw (hrefused.1 (.inr h)), if_pos rfl]
  · have htarget' : sourceOfCode (s.ctl.args.get 0) = some target := by
      rcases htarget with ⟨rfl, hcode⟩ | ⟨rfl, hcode⟩ | ⟨rfl, hcode⟩ <;> exact sourceOfCode_of_toNat hcode
    have hint : target.external = false ∧ target.multiplied = false ∧ badFactor target (s.ctl.args.get 1) = false ∧
        s.clock.accept target (s.ctl.args.get 1) = { s.clock with switch := some ⟨target, 0, .ready⟩, timer := none } := by
      rcases htarget with ⟨rfl, _⟩ | ⟨rfl, _⟩ | ⟨rfl, _⟩ <;> exact ⟨rfl, rfl, rfl, rfl⟩
    obtain ⟨hext, hmult, hfactor, haccept⟩ := hint
    rw [((clksel_examined hi hfree.1 hfree.2).2 _ htarget').2 (clkselRefusal_none hfactor (by rw [hext]; exact Bool.false_ne_true)
      (by rw [hmult]; exact Bool.false_ne_true) (Ne.symm hne)), applyIfPassive_started, haccept]
  · have htarget := sourceOfCode_of_toNat (c := .ext) hcode
    obtain ⟨_, hrefused⟩ := clksel_target (s := s) htarget
    rw [((clksel_examined hi hfree.1 hfree.2).2 _ htarget).2 (clkselRefusal_none rfl (fun h => hsw (hrefused.1 (.inl h)))
      (fun h => hsw (hrefused.1 (.inr h))) (Ne.symm hne)), applyIfPassive_started, Clock.accept,
      ite_congr (propext (Clock.xclkProven_ext s.clock)) (fun _ => rfl) (fun _ => rfl)]
  · have htarget := sourceOfCode_of_toNat (c := .rcfM) hcode
    obtain ⟨hfactor, hrefused⟩ := clksel_target (s := s) htarget
    have hne : ClockSource.rcfM ≠ s.clock.source := fun h => hsw (.inr ⟨.inl hcode, h ▸ rfl⟩)
    rw [((clksel_examined hi hfree.1 hfree.2).2 _ htarget).2 (clkselRefusal_none
      (Bool.eq_false_iff.2 fun h => hbad (.inr (hfactor.1 h))) (fun h => hsw (hrefused.1 (.inl h)))
      (fun h => hsw (hrefused.1 (.inr h))) hne), applyIfPassive_started, BitVec.ofNat_toNat]
    rfl
  · have htarget := sourceOfCode_of_toNat (c := .extM) hcode
    obtain ⟨hfactor, hrefused⟩ := clksel_target (s := s) htarget
    have hne : ClockSource.extM ≠ s.clock.source := fun h => hsw (.inr ⟨.inr hcode, h ▸ rfl⟩)
    rw [((clksel_examined hi hfree.1 hfree.2).2 _ htarget).2 (clkselRefusal_none
      (Bool.eq_false_iff.2 fun h => hbad (.inr (hfactor.1 h))) (fun h => hsw (hrefused.1 (.inl h)))
      (fun h => hsw (hrefused.1 (.inr h))) hne), applyIfPassive_started, BitVec.ofNat_toNat, Clock.accept,
      ite_congr (propext (Clock.xclkProven_extM s.clock)) (fun _ => rfl) (fun _ => rfl)]

/-- Settles O38: a READY switch, and what makes a check or a switch READY. -/
theorem clockSourcesBecomeReady : Obligations.ClockSourcesBecomeReady := by
  refine ⟨fun s => ⟨fun target f hs => ?_, fun target f hs => ?_, fun hs => ?_⟩, fun s hr => ?_⟩
  · unfold applyReadySwitch
    rw [hs]
    exact congrArg (fun c => raise .clkDone (s.withClock c)) (Clock.applied_eq _ _)
  · unfold applyReadySwitch
    rw [hs]
  · unfold applyReadySwitch
    rw [hs]
  · refine ⟨fun hc hs => ?_, fun hc hs hm => ?_, fun hc f hs => ?_, fun hc f hs hm => ?_, fun hm hc => ?_,
      fun hm hc target f ht hs => ?_, fun hm => ?_⟩
    · exact congrArg Host.Outcome.next (xclkContinuityReady_check_ext hr hc hs)
    · exact congrArg Host.Outcome.next (xclkContinuityReady_check_extM hr hc hs hm)
    · exact congrArg Host.Outcome.next (xclkContinuityReady_switch_ext hr hc hs)
    · exact congrArg Host.Outcome.next (xclkContinuityReady_switch_extM hr hc hs hm)
    · exact congrArg Host.Outcome.next (multiplierLocked_check hm hc)
    · exact congrArg Host.Outcome.next (multiplierLocked_switch hm hc ((ClockSource.multiplied_iff _).2 ht) hs)
    · exact congrArg Host.Outcome.next (if_pos hm)

/-- Settles O39: what a timeout and a loss of XCLK end. -/
theorem timeoutAndLossEndTheWait : Obligations.TimeoutAndLossEndTheWait := by
  refine ⟨fun s n ht => ⟨fun hc => ?_, fun hc => ?_, fun hc target f hs => ?_, fun hc target f hs => ?_⟩,
    fun s => ⟨fun hr => ?_, fun hr he hc hs => ?_, fun hr he hc hs => ?_, fun hr he p hs hp => ?_, fun hr he hc p hs hp => ?_,
      fun hu hs => ?_⟩⟩
  · refine congrArg Host.Outcome.next ((readinessTimeout_strap ht hc).trans ?_)
    rw [fallToRcb_eq, if_pos (Clock.checking_of_cond hc)]
    rfl
  · refine congrArg Host.Outcome.next ((readinessTimeout_restart ht hc).trans ?_)
    rw [fallToRcb_eq, if_pos (Clock.checking_of_cond hc)]
    rfl
  · refine congrArg Host.Outcome.next ((readinessTimeout_waiting ht hc hs).trans ?_)
    rw [abandonSwitch_eq, abandoned_eq]
    rfl
  · exact congrArg Host.Outcome.next (readinessTimeout_ready ht hc hs)
  · refine congrArg Host.Outcome.next (if_neg ?_)
    rw [xclkWatched, hr]
    exact Bool.false_ne_true
  · have hu := (Clock.usesXclk_iff _).2 ⟨he, fun h => by rw [hc] at h; cases h⟩
    refine congrArg Host.Outcome.next ((lossOfXclk_failover hr hu hs).trans ?_)
    rw [fallToRcb_eq, if_neg (Bool.eq_false_iff.1 ((Clock.not_checking_iff _).2 (.inl hc)))]
    rfl
  · have hu := (Clock.usesXclk_iff _).2 ⟨he, fun h => by rw [(Clock.not_checking_iff _).2 (.inr h)] at hc; cases hc⟩
    refine congrArg Host.Outcome.next ((lossOfXclk_failover hr hu (.inl hs)).trans ?_)
    rw [fallToRcb_eq, if_pos hc]
    rfl
  · have hext := (ClockSource.external_iff _).2 hp
    refine congrArg Host.Outcome.next ((lossOfXclk_watched hr (.inr ?_)).trans ?_)
    · rw [Clock.switchExternal, hs]
      exact hext
    · rw [failover_of_not_uses fun h => he ((Clock.usesXclk_iff _).1 h).1, abandonExternal_some hs, if_pos hext,
        abandonSwitch_eq, abandoned_eq]
      rfl
  · have hu := (Clock.usesXclk_iff _).2 ⟨he, fun h => by rw [hc] at h; cases h⟩
    refine congrArg Host.Outcome.next ((lossOfXclk_watched hr (.inl hu)).trans ?_)
    rw [failover_of_uses hu]
    refine (abandonExternal_some (s := raise .clkFail (s.withClock (fallToRcb s.clock))) (p := p) hs).trans
      ((if_pos ((ClockSource.external_iff _).2 hp)).trans ?_)
    have hmult : ∀ a b : Bool, (if b then MultState.off else if a then .off else s.clock.mult.state) =
        if a || b then .off else s.clock.mult.state := fun a b => by cases a <;> cases b <;> rfl
    have hevents : s.ctl.events ||| 0x100 ||| 0x80 = s.ctl.events ||| 0x180 := BitVec.or_assoc _ _ _
    rw [abandonSwitch_eq, abandoned_eq, fallToRcb_eq]
    dsimp only
    rw [← hmult, ← hevents]
    rfl
  · refine congrArg Host.Outcome.next (if_neg fun hw => ?_)
    rw [xclkWatched, Bool.and_eq_true, Bool.or_eq_true, Clock.usesXclk_iff, Clock.switchExternal, hs] at hw
    obtain ⟨hext, hcond⟩ := hw.2.resolve_right Bool.false_ne_true
    exact hu.elim hcond fun hint => hint hext

end Sys2Proof.Machine
end

section
/-! Setup validation (R139, R146): O40. -/

namespace Sys2Proof.Machine

/-! ### The first failing check of a list in the order of its indexes -/

section
variable {checks : List (Fin 16 × Bool)} {fails : Nat → Prop}

/-- No check fails: none of the fields checked does. -/
theorem firstFault_none_iff (h : ∀ c ∈ checks, c.2 = true ↔ fails c.1.val) :
    firstFault checks = none ↔ ∀ i ∈ checks.map fun c => c.1.val, ¬ fails i := by
  rw [firstFault, Option.map_eq_none_iff, List.find?_eq_none, List.forall_mem_map]
  exact forall₂_congr fun c hc => not_congr (h c hc)

/-- With rising indexes, the index found is that of the first field that fails. -/
theorem firstFault_some_iff (h : ∀ c ∈ checks, c.2 = true ↔ fails c.1.val)
    (hs : (checks.map fun c => c.1.val).Pairwise (· < ·)) (i : Fin 16) :
    firstFault checks = some i ↔ i.val ∈ checks.map (fun c => c.1.val) ∧ fails i.val ∧
      ∀ j ∈ checks.map fun c => c.1.val, j < i.val → ¬ fails j := by
  rw [firstFault, Option.map_eq_some_iff, List.forall_mem_map]
  constructor
  · rintro ⟨c, hc, rfl⟩
    obtain ⟨hfail, older, younger, rfl, hpass⟩ := List.find?_eq_some_iff_append.1 hc
    have hmem : c ∈ older ++ c :: younger := by simp
    refine ⟨List.mem_map_of_mem hmem, (h c hmem).1 hfail, fun d hd hlt hf => ?_⟩
    rw [List.map_append, List.map_cons, List.pairwise_append, List.pairwise_cons] at hs
    obtain ⟨_, ⟨hyounger, _⟩, _⟩ := hs
    rcases List.mem_append.1 hd with hd' | hd'
    · have hp := hpass d hd'
      rw [(h d hd).2 hf] at hp
      exact Bool.false_ne_true hp
    · rcases List.mem_cons.1 hd' with rfl | hd'
      · exact Nat.lt_irrefl _ hlt
      · exact Nat.lt_asymm hlt (hyounger _ (List.mem_map_of_mem hd'))
  · rintro ⟨hi, hfail, hpass⟩
    obtain ⟨c, hc, hci⟩ := List.mem_map.1 hi
    obtain rfl := Fin.ext hci
    obtain ⟨older, younger, rfl⟩ := List.append_of_mem hc
    refine ⟨c, List.find?_eq_some_iff_append.2 ⟨(h c hc).2 hfail, older, younger, rfl, fun d hd => ?_⟩, rfl⟩
    rw [List.map_append, List.map_cons, List.pairwise_append] at hs
    have hd' := List.mem_append_left (c :: younger) hd
    have hlt := hs.2.2 _ (List.mem_map_of_mem hd) _ List.mem_cons_self
    rw [Bool.eq_false_iff.2 fun hf => hpass d hd' hlt ((h d hd').1 hf)]
    rfl

end

/-! ### The fields in numbers (R4, R89, R139) -/

theorem modeCode_eq (w : Word) : modeCode w = w.toNat % 4 := by
  rw [modeCode, BitVec.extractLsb'_toNat, Nat.shiftRight_zero]

theorem roleCode_eq (w : Word) : roleCode w = w.toNat / 256 % 4 := by
  rw [roleCode, BitVec.extractLsb'_toNat, Nat.shiftRight_eq_div_pow]

theorem windowFirst_eq (setup : Vector Word 17) (w : Fin 17 × Fin 17) : windowFirst setup w = (setup.get w.1).toNat % 0x2000 := by
  rw [windowFirst, BitVec.extractLsb'_toNat, Nat.shiftRight_zero]

theorem windowLast_eq (setup : Vector Word 17) (w : Fin 17 × Fin 17) : windowLast setup w = (setup.get w.2).toNat % 0x2000 := by
  rw [windowLast, BitVec.extractLsb'_toNat, Nat.shiftRight_zero]

theorem windowEnabled_iff (setup : Vector Word 17) (w : Fin 17 × Fin 17) :
    windowEnabled setup w = true ↔ 0x8000 ≤ (setup.get w.1).toNat := by
  have hlt := (setup.get w.1).isLt
  rw [windowEnabled, ← BitVec.msb_eq_getLsbD_last (w := 16), BitVec.msb_eq_decide, decide_eq_true_eq]

/-- An enabled window is at fault, in numbers (R139 indexes 9 to 15). -/
theorem windowFails_iff (cps : BitVec 3) (setup : Vector Word 17) (w : Fin 17 × Fin 17) :
    windowFails cps setup w = true ↔
      0x8000 ≤ (setup.get w.1).toNat ∧
        ((setup.get w.2).toNat % 0x2000 < (setup.get w.1).toNat % 0x2000 ∨
          ((setup.get w.1).toNat % 0x2000 * 256 < 0x1F8000 + cps.toNat * 0x1000 + 0x1000 ∧
            0x1F8000 + cps.toNat * 0x1000 ≤ (setup.get w.2).toNat % 0x2000 * 256)) := by
  have hpage : controlFirstPage cps = 0x1F80 + cps.toNat * 16 := by
    unfold controlFirstPage controlBase Config.controlBase0 Config.controlBytes
    omega
  rw [windowFails, Bool.and_eq_true, Bool.or_eq_true, Bool.and_eq_true, windowEnabled_iff, decide_eq_true_eq, decide_eq_true_eq,
    decide_eq_true_eq, windowFirst_eq, windowLast_eq, hpage]
  refine and_congr_right' (or_congr_right ?_)
  omega

/-- A table passes, in numbers (R99, R139 index 7). -/
theorem tableHiAllowed_iff (cps : BitVec 3) (lo hi : Word) (lines : Nat) :
    tableHiAllowed cps lo hi lines = true ↔ hi.toNat ≤ 31 ∧ hi.toNat * 0x10000 + lo.toNat + 4 * lines ≤ 0x200000 ∧
      (0x1F8000 + cps.toNat * 0x1000 + 0x1000 ≤ hi.toNat * 0x10000 + lo.toNat ∨
        hi.toNat * 0x10000 + lo.toNat + 4 * lines ≤ 0x1F8000 + cps.toNat * 0x1000) := by
  simp only [tableHiAllowed, tableAllowed, Bool.and_eq_true, decide_eq_true_eq, Bool.not_eq_true', Bool.and_eq_false_iff,
    decide_eq_false_iff_not, Nat.not_lt]
  rfl

/-! ### The checks of ENGAGE by their indexes (R139) -/

/-- The check of setup field `i` fails (R139). -/
def setupFails (s : State) (i : Nat) : Prop :=
  let f := fun i : Fin 17 => (s.ctl.setup.get i).toNat
  let page := 0x1F8000 + s.pins.cps.toNat * 0x1000
  let base := f 7 * 0x10000 + f 6
  if i = 0 then f 0 % 4 = 0 ∨ f 0 / 256 % 4 = 3
  else if i = 1 then f 1 < 1 ∨ 256 < f 1
  else if i = 2 then f 2 < 1 ∨ 512 < f 2
  else if i = 3 then f 3 < 32 ∨ 4095 < f 3 ∨ f 3 < f 2 + 12
  else if i = 4 then f 4 < 1 ∨ 63 < f 4
  else if i = 5 then f 5 < 1 ∨ 255 < f 5
  else if i = 6 then ¬ f 6 % 4 = 0
  else if i = 7 then 31 < f 7 ∨ 0x200000 < base + 4 * f 1 ∨ (base < page + 0x1000 ∧ page < base + 4 * f 1)
  else if i = 9 ∨ i = 11 ∨ i = 13 ∨ i = 15 then
    let first := f (Fin.ofNat 17 (i - 1)) % 0x2000
    let last := f (Fin.ofNat 17 i) % 0x2000
    0x8000 ≤ f (Fin.ofNat 17 (i - 1)) ∧ (last < first ∨ (first * 256 < page + 0x1000 ∧ page ≤ last * 256))
  else False

/-- Only the fields that ENGAGE checks fail. -/
theorem setupFails_index {s : State} {i : Nat} (h : setupFails s i) : i ∈ [0, 1, 2, 3, 4, 5, 6, 7, 9, 11, 13, 15] := by
  refine Classical.byContradiction fun hn => ?_
  simp only [List.mem_cons, List.not_mem_nil, or_false, not_or] at hn
  obtain ⟨h0, h1, h2, h3, h4, h5, h6, h7, h9⟩ := hn
  unfold setupFails at h
  rwa [if_neg h0, if_neg h1, if_neg h2, if_neg h3, if_neg h4, if_neg h5, if_neg h6, if_neg h7,
    if_neg (by simpa only [not_or] using h9)] at h

theorem setupFails_index_lt {s : State} {i : Nat} (h : setupFails s i) : i < 16 :=
  (show ∀ j ∈ [0, 1, 2, 3, 4, 5, 6, 7, 9, 11, 13, 15], j < 16 by decide) i (setupFails_index h)

theorem geometryChecks_iff (s : State) : ∀ c ∈ geometryChecks s.ctl.setup, c.2 = true ↔ setupFails s c.1.val := by
  simp only [geometryChecks, List.forall_mem_cons, Bool.or_eq_true, decide_eq_true_eq, or_assoc]
  exact ⟨Iff.rfl, Iff.rfl, Iff.rfl, Iff.rfl, Iff.rfl, fun _ hc => absurd hc List.not_mem_nil⟩

/-- The checks of fields 6 to 15 (R139). -/
theorem staticChecks_iff (s : State) : ∀ c ∈ [((6 : Fin 16), !aligned (s.ctl.setup.get 6)),
    (7, !tableHiAllowed s.pins.cps (s.ctl.setup.get 6) (s.ctl.setup.get 7) (field s.ctl.setup 1)),
    (9, windowFails s.pins.cps s.ctl.setup (8, 9)), (11, windowFails s.pins.cps s.ctl.setup (10, 11)),
    (13, windowFails s.pins.cps s.ctl.setup (12, 13)), (15, windowFails s.pins.cps s.ctl.setup (14, 15))],
    c.2 = true ↔ setupFails s c.1.val := by
  simp only [List.forall_mem_cons, windowFails_iff, Bool.not_eq_true', aligned, beq_eq_false_iff_ne]
  refine ⟨Iff.rfl, ?_, Iff.rfl, Iff.rfl, Iff.rfl, Iff.rfl, fun _ hc => absurd hc List.not_mem_nil⟩
  rw [← Bool.not_eq_true, tableHiAllowed_iff]
  show _ ↔ (31 < (s.ctl.setup.get 7).toNat ∨ _ ∨ _)
  dsimp only [field]
  omega

theorem engageChecks_iff (s : State) : ∀ c ∈ engageChecks s.pins.cps s.ctl.setup, c.2 = true ↔ setupFails s c.1.val := by
  intro c hc
  rcases List.mem_append.1 hc with hc | hc
  · rcases List.mem_append.1 hc with hc | hc
    · obtain rfl := List.mem_singleton.1 hc
      rw [modeFails, Bool.or_eq_true, beq_iff_eq, beq_iff_eq, modeCode_eq, roleCode_eq]
      rfl
    · exact geometryChecks_iff s c hc
  · exact staticChecks_iff s c hc

theorem engageChecks_indexes (cps : BitVec 3) (setup : Vector Word 17) :
    (engageChecks cps setup).map (fun c => c.1.val) = [0, 1, 2, 3, 4, 5, 6, 7, 9, 11, 13, 15] := rfl

theorem geometryChecks_indexes (setup : Vector Word 17) : (geometryChecks setup).map (fun c => c.1.val) = [1, 2, 3, 4, 5] := rfl

theorem engageFault_none_iff (s : State) : engageFault s = none ↔ ∀ i, ¬ setupFails s i := by
  rw [engageFault, firstFault_none_iff (engageChecks_iff s), engageChecks_indexes]
  exact ⟨fun h i hi => h i (setupFails_index hi) hi, fun h i _ => h i⟩

theorem engageFault_some_iff (s : State) (i : Fin 16) :
    engageFault s = some i ↔ setupFails s i.val ∧ ∀ j, j < i.val → ¬ setupFails s j := by
  rw [engageFault, firstFault_some_iff (engageChecks_iff s) (by rw [engageChecks_indexes]; decide), engageChecks_indexes]
  exact ⟨fun ⟨_, hf, hp⟩ => ⟨hf, fun j hj hfj => hp j (setupFails_index hfj) hj hfj⟩,
    fun ⟨hf, hp⟩ => ⟨setupFails_index hf, hf, fun j _ hj => hp j hj⟩⟩

theorem mem_geometry_indexes (i : Nat) : i ∈ [1, 2, 3, 4, 5] ↔ 1 ≤ i ∧ i ≤ 5 := by
  simp only [List.mem_cons, List.not_mem_nil, or_false]
  omega

theorem wakeFault_none_iff (s : State) : wakeFault s = none ↔ ∀ i, 1 ≤ i → i ≤ 5 → ¬ setupFails s i := by
  rw [wakeFault, firstFault_none_iff (geometryChecks_iff s), geometryChecks_indexes]
  simp only [mem_geometry_indexes, and_imp]

theorem wakeFault_some_iff (s : State) (i : Fin 16) :
    wakeFault s = some i ↔ (1 ≤ i.val ∧ i.val ≤ 5 ∧ setupFails s i.val ∧ ∀ j, 1 ≤ j → j < i.val → ¬ setupFails s j) := by
  rw [wakeFault, firstFault_some_iff (geometryChecks_iff s) (by rw [geometryChecks_indexes]; decide), geometryChecks_indexes]
  simp only [mem_geometry_indexes, and_assoc, and_imp]
  exact ⟨fun ⟨h1, h5, hf, hp⟩ => ⟨h1, h5, hf, fun j hj hlt => hp j hj (Nat.le_trans (Nat.le_of_lt hlt) h5) hlt⟩,
    fun ⟨h1, h5, hf, hp⟩ => ⟨h1, h5, hf, fun j hj _ hlt => hp j hj hlt⟩⟩

/-- Settles O40: the index found is that of the first field whose check fails. -/
theorem engageFindsTheFirstFault : Obligations.EngageFindsTheFirstFault := fun s =>
  ⟨(engageFault_none_iff s).trans ⟨fun h i _ => h i, fun h i hi => h i (setupFails_index_lt hi) hi⟩, engageFault_some_iff s,
    wakeFault_none_iff s, wakeFault_some_iff s⟩

end Sys2Proof.Machine
end

section
/-! The Interposer Controller's commands and the command record (R9, R137 to R147, R153 to R155): O41, O42, O43 and O44. -/

namespace Sys2Proof.Machine

/-! ### The mode in force and the base at ENGAGE (R9, R98) -/

theorem modeOf_eq (w : Word) : modeOf w =
    ⟨if w.toNat % 4 = 2 then .frame else if w.toNat % 4 = 3 then .commit else .direct, w.getLsbD 4,
      if w.toNat / 256 % 4 = 1 then .leader else if w.toNat / 256 % 4 = 2 then .follower else .none⟩ := by
  unfold modeOf
  rw [modeCode_eq, roleCode_eq]

/-- The table fields of a setup record that passes validation (R139 indexes 6 and 7). -/
theorem tableFields_of_no_fault {s : State} (h : engageFault s = none) :
    (s.ctl.setup.get 6).toNat % 4 = 0 ∧ (s.ctl.setup.get 7).toNat ≤ 31 :=
  ⟨Classical.not_not.1 ((engageFault_none_iff s).1 h 6), Nat.le_of_not_lt fun hlt => (engageFault_none_iff s).1 h 7 (.inl hlt)⟩

theorem engageAccepted_eq {s : State} (h : engageFault s = none) :
    engageAccepted s = (s.withCtl { s.ctl with
        istate := .starting, setupFault := none
        mode := ⟨if (s.ctl.setup.get 0).toNat % 4 = 2 then .frame else if (s.ctl.setup.get 0).toNat % 4 = 3 then .commit
            else .direct, (s.ctl.setup.get 0).getLsbD 4,
          if (s.ctl.setup.get 0).toNat / 256 % 4 = 1 then .leader
            else if (s.ctl.setup.get 0).toNat / 256 % 4 = 2 then .follower else .none⟩ }).withScan
      { s.scan with
        frames := 0, stagedReady := false, stagedLo := s.ctl.setup.get 6, stagedHi := s.ctl.setup.get 7
        base := BitVec.ofNat 21 ((s.ctl.setup.get 7).toNat * 0x10000 + (s.ctl.setup.get 6).toNat) } := by
  obtain ⟨hlo, hhi⟩ := tableFields_of_no_fault h
  unfold engageAccepted
  rw [modeOf_eq, formBase_eq, Nat.mod_eq_of_lt (Nat.lt_succ_of_le hhi), Nat.div_mul_cancel (Nat.dvd_of_mod_eq_zero hlo)]

/-! ### The command rows while RESET# is deasserted -/

theorem exec_engage {s : State} (h : s.pins.reset = false) : exec .engage s = .next (engage s) :=
  congrArg Host.Outcome.next (decoded_of_reset_false _ h)

theorem exec_disengage {s : State} (h : s.pins.reset = false) : exec .disengage s = .next (disengage s) :=
  congrArg Host.Outcome.next (decoded_of_reset_false _ h)

theorem exec_quiesce {s : State} (h : s.pins.reset = false) : exec .quiesce s = .next (quiesce s) :=
  congrArg Host.Outcome.next (decoded_of_reset_false _ h)

theorem exec_resume {s : State} (h : s.pins.reset = false) : exec .resume s = .next (resume s) :=
  congrArg Host.Outcome.next (decoded_of_reset_false _ h)

theorem eq_draining {i : IState} (h : i.isDraining = true) : ∃ target after, i = .draining target after := by
  cases i with
  | draining target after => exact ⟨target, after, rfl⟩
  | passive | starting | running | dormant => cases h

theorem quiesce_of_passThrough {s : State} (h : s.ctl.istate.passThrough = true) :
    quiesce s = recordCommand 0x5303 .badState s := by
  unfold quiesce
  split
  · rename_i hi
    rw [hi] at h
    cases h
  · rename_i hi
    rw [hi] at h
    cases h
  all_goals rfl

/-! ### RESUME and WAKE (R146, R147) -/

theorem resume_of_not_dormant {s : State} (h : s.ctl.istate ≠ .dormant) : resume s = recordCommand 0x5304 .badState s := if_pos h

theorem resume_of_no_fault {s : State} (h : s.ctl.istate = .dormant) (hf : wakeFault s = none) :
    resume s = recordCommand 0x5304 .started (leaveDormant s) := by
  unfold resume
  rw [if_neg (Classical.not_not.2 h), hf]
  rfl

theorem resume_of_fault {s : State} (h : s.ctl.istate = .dormant) {i : Fin 16} (hf : wakeFault s = some i) :
    resume s = recordCommand 0x5304 .badSetup (s.withCtl { s.ctl with setupFault := some i }) := by
  unfold resume
  rw [if_neg (Classical.not_not.2 h), hf]
  rfl

theorem wakeUp_of_no_fault {s : State} (hf : wakeFault s = none) : wakeUp s = leaveDormant s := by
  unfold wakeUp; rw [hf]

theorem wakeUp_of_fault {s : State} {i : Fin 16} (hf : wakeFault s = some i) :
    wakeUp s = raise .refused (s.withCtl { s.ctl with setupFault := some i }) := by
  unfold wakeUp; rw [hf]

theorem wakeArrival_of_dormant {s : State} (h : s.ctl.istate = .dormant) (hr : s.pins.reset = false) :
    wakeArrival s = wakeUp (s.withPins { s.pins with wake := true }) :=
  if_pos ⟨h, by show (!s.pins.reset) = true; rw [hr]; rfl⟩

theorem wakeArrival_of_not_dormant {s : State} (h : s.ctl.istate ≠ .dormant) :
    wakeArrival s = s.withPins { s.pins with wake := true } := if_neg fun hc => h hc.1

/-! ### The command record (R155) -/

/-- `u` is `s` after a command write of this code, with its result recorded (R155). -/
def Recorded (code : Word) (s u : State) : Prop :=
  u.ctl.lastCode = code ∧ u.ctl.count = s.ctl.count + 1 ∧ u.ctl.lastResult ≠ .none ∧ u.ctl.args = s.ctl.args

theorem recorded_recordCommand {code : Word} {r : Result} {s t : State} (hc : t.ctl.count = s.ctl.count)
    (ha : t.ctl.args = s.ctl.args) (hr : r ≠ .none) : Recorded code s (recordCommand code r t) :=
  ⟨recordCommand_lastCode _ _ _, by rw [recordCommand_count, hc], by rwa [recordCommand_lastResult],
    by rw [recordCommand_args, ha]⟩

/-- The command record, apart from the argument latches. -/
def record (s : State) : Word × Result × BitVec 16 := (s.ctl.lastCode, s.ctl.lastResult, s.ctl.count)

@[simp] theorem record_raise (e : Event) (s : State) : record (raise e s) = record s := rfl

@[simp] theorem record_raiseIf (c : Bool) (e : Event) (s : State) : record (raiseIf c e s) = record s := by
  unfold raiseIf; split <;> rfl

@[simp] theorem record_applyReadySwitch (s : State) : record (applyReadySwitch s) = record s := by
  unfold applyReadySwitch; split <;> rfl

@[simp] theorem record_setupWritten (data : Word) (lanes : Lanes) (s : State) : record (setupWritten data lanes s) = record s := by
  have hstage : ∀ u : State, record (fieldStored s.ctl.ptr data u) = record u := fun u => by
    unfold fieldStored stageLo stageHi
    split
    · rfl
    · split
      · split
        · rfl
        · exact record_raiseIf _ _ _
      · rfl
  unfold setupWritten
  split
  · rfl
  · split
    · rfl
    · exact hstage (storeField data s)

@[simp] theorem record_wakeUp (s : State) : record (wakeUp s) = record s := by
  unfold wakeUp; split <;> rfl

theorem record_wakeArrival (s : State) : record (wakeArrival s) = record s := by
  unfold wakeArrival
  dsimp only
  split
  · exact record_wakeUp _
  · rfl

theorem record_congr {s t : State} (h : t.ctl = s.ctl) : record t = record s := by
  unfold record; rw [h]

theorem record_cutQueue (s : State) : record (cutQueue s) = record s := by
  unfold cutQueue
  split
  · exact (record_congr (noteWait_ctl _ _ _)).trans rfl
  all_goals rfl

theorem record_cut (s : State) : record (cut s) = record s := by
  unfold cut
  rw [record_applyReadySwitch, record_raise, record_cutQueue]
  rfl

theorem applyReadySwitch_args (s : State) : (applyReadySwitch s).ctl.args = s.ctl.args := by
  unfold applyReadySwitch; split <;> rfl

theorem Recorded.applyIfPassive {code : Word} {s u : State} (h : Recorded code s u) : Recorded code s (applyIfPassive u) := by
  unfold Machine.applyIfPassive
  split
  · obtain ⟨hcode, hcount, hresult, hargs⟩ := h
    have hrec := record_applyReadySwitch u
    simp only [record, Prod.mk.injEq] at hrec
    obtain ⟨hc, hr, hn⟩ := hrec
    exact ⟨hc.trans hcode, hn.trans hcount, hr ▸ hresult, (applyReadySwitch_args u).trans hargs⟩
  · exact h

/-! ### Every command records itself (R155) -/

theorem fillRefusal_ne_none {s : State} {r : Result} (h : fillRefusal s = some r) : r ≠ .none := by
  rintro rfl
  unfold fillRefusal at h
  dsimp only at h
  repeat' split at h
  all_goals cases h

theorem copyRefusal_ne_none {s : State} {r : Result} (h : copyRefusal s = some r) : r ≠ .none := by
  rintro rfl
  unfold copyRefusal at h
  dsimp only at h
  repeat' split at h
  all_goals cases h

theorem clkselRefusal_ne_none {s : State} {target : ClockSource} {r : Result} (h : clkselRefusal s target = some r) :
    r ≠ .none := by
  rintro rfl
  unfold clkselRefusal at h
  repeat' split at h
  all_goals cases h

theorem recorded_engage (s : State) : Recorded (Command.code .engage) s (engage s) := by
  unfold engage
  split
  · exact recorded_recordCommand rfl rfl Result.noConfusion
  · split <;> exact recorded_recordCommand rfl rfl Result.noConfusion

theorem recorded_disengage (s : State) : Recorded (Command.code .disengage) s (disengage s) := by
  unfold disengage
  have hrec := record_applyReadySwitch (setIState .passive s)
  simp only [record, Prod.mk.injEq] at hrec
  split
  · exact recorded_recordCommand rfl rfl Result.noConfusion
  · exact recorded_recordCommand hrec.2.2 (applyReadySwitch_args _) Result.noConfusion
  all_goals exact recorded_recordCommand rfl rfl Result.noConfusion

theorem recorded_quiesce (s : State) : Recorded (Command.code .quiesce) s (quiesce s) := by
  unfold quiesce
  split
  · split <;> exact recorded_recordCommand rfl rfl Result.noConfusion
  all_goals exact recorded_recordCommand rfl rfl Result.noConfusion

theorem recorded_resume (s : State) : Recorded (Command.code .resume) s (resume s) := by
  unfold resume
  split
  · exact recorded_recordCommand rfl rfl Result.noConfusion
  · split <;> exact recorded_recordCommand rfl rfl Result.noConfusion

theorem recorded_commit (s : State) : Recorded (Command.code .commit) s (commit s) := by
  unfold commit
  split
  · exact recorded_recordCommand rfl rfl Result.noConfusion
  · split
    · exact recorded_recordCommand rfl rfl Result.noConfusion
    · exact recorded_recordCommand (by rw [commitOpen_ctl]) (by rw [commitOpen_ctl]) Result.noConfusion

theorem recorded_fill (s : State) : Recorded (Command.code .fill) s (fill s) := by
  unfold fill
  split
  · rename_i r hr
    exact recorded_recordCommand rfl rfl (fillRefusal_ne_none hr)
  · exact recorded_recordCommand rfl rfl Result.noConfusion

theorem recorded_copy (s : State) : Recorded (Command.code .copy) s (copy s) := by
  unfold copy
  split
  · rename_i r hr
    exact recorded_recordCommand rfl rfl (copyRefusal_ne_none hr)
  · exact recorded_recordCommand rfl rfl Result.noConfusion

theorem recorded_movestop (s : State) : Recorded (Command.code .movestop) s (movestop s) := by
  unfold movestop
  split
  · exact recorded_recordCommand rfl rfl Result.noConfusion
  · split
    · exact recorded_recordCommand rfl rfl Result.noConfusion
    · split
      · exact recorded_recordCommand rfl rfl Result.noConfusion
      · exact recorded_recordCommand (by rw [moverEnds, noteWait_ctl]; rfl) (by rw [moverEnds, noteWait_ctl]; rfl)
          Result.noConfusion

theorem recorded_clksel (s : State) : Recorded (Command.code .clksel) s (clksel s) := by
  unfold clksel
  split
  · exact recorded_recordCommand rfl rfl Result.noConfusion
  · split
    · exact recorded_recordCommand rfl rfl Result.noConfusion
    · split
      · exact recorded_recordCommand rfl rfl Result.noConfusion
      · split
        · rename_i r hr
          exact recorded_recordCommand rfl rfl (clkselRefusal_ne_none hr)
        · exact Recorded.applyIfPassive (recorded_recordCommand rfl rfl Result.noConfusion)

theorem recorded_setptr (s : State) : Recorded (Command.code .setptr) s (setptr s) := by
  unfold setptr
  split <;> exact recorded_recordCommand rfl rfl Result.noConfusion

/-- A command at its take records its code, a result and one more command write (R155). -/
theorem recorded_runCommand (c : Command) (s : State) : Recorded c.code s (runCommand c s) := by
  cases c with
  | engage => exact recorded_engage s
  | disengage => exact recorded_disengage s
  | quiesce => exact recorded_quiesce s
  | resume => exact recorded_resume s
  | commit => exact recorded_commit s
  | fill => exact recorded_fill s
  | copy => exact recorded_copy s
  | movestop => exact recorded_movestop s
  | clksel => exact recorded_clksel s
  | ack => exact recorded_recordCommand rfl rfl Result.noConfusion
  | setptr => exact recorded_setptr s

/-- The command record, by the result (R155). -/
theorem recordCommand_eq (code : Word) (r : Result) (s : State) : recordCommand code r s = s.withCtl { s.ctl with
    lastCode := code, lastResult := r, count := s.ctl.count + 1
    events := if r = .done ∨ r = .started then s.ctl.events else s.ctl.events ||| 0x800 } := by
  by_cases h : r = .done ∨ r = .started
  · rw [recordCommand_accepted code (by rcases h with rfl | rfl <;> rfl), if_pos h]
  · rw [recordCommand_refused code (by revert h; cases r <;> simp [Result.accepted]), if_neg h]
    rfl

/-! ### The obligations -/

/-- Settles O41: ENGAGE, by the state and the setup record. -/
theorem engageStartsThePart : Obligations.EngageStartsThePart := by
  intro s hr
  rw [exec_engage hr]
  refine ⟨fun hi => congrArg _ (if_pos hi), fun hi i hf => ?_, fun hi hf => ?_⟩
  · unfold engage
    rw [if_neg (Classical.not_not.2 hi), hf]
    rfl
  · unfold engage
    rw [if_neg (Classical.not_not.2 hi), hf, engageAccepted_eq hf]
    rfl

/-- Settles O42: DISENGAGE and QUIESCE, by the state. -/
theorem disengageAndQuiesceLeaveRunning : Obligations.DisengageAndQuiesceLeaveRunning := by
  intro s hr
  rw [exec_disengage hr, exec_quiesce hr]
  refine ⟨fun hi => ?_, fun hi => ?_, fun hi => ?_, fun hd => ?_, fun hi => ?_, fun hi hs => ?_, fun hi hs => ?_, fun hp => ?_⟩
  · unfold disengage
    rw [hi]
    rfl
  · unfold disengage
    rw [hi]
    rfl
  · unfold disengage
    rw [hi]
    rfl
  · obtain ⟨target, after, hi⟩ := eq_draining hd
    unfold disengage quiesce
    rw [hi]
    exact ⟨rfl, rfl⟩
  · unfold disengage
    rw [hi]
    rfl
  · unfold quiesce
    rw [hi, hs]
    rfl
  · unfold quiesce
    rw [hi]
    exact congrArg _ (if_pos (Option.isSome_iff_ne_none.2 hs))
  · rw [quiesce_of_passThrough hp]

/-- Settles O43: the restart of the source, RESUME and WAKE. -/
theorem wakeAndResumeLeaveDormant : Obligations.WakeAndResumeLeaveDormant := by
  refine ⟨fun c => ⟨fun hc => ?_, fun hc => ?_, fun hc => ?_⟩, fun s hr => ?_⟩
  · unfold restartClock
    rcases hc with hc | hc | hc <;> rw [hc]
  · unfold restartClock
    rcases hc with hc | hc <;> rw [hc]
  · unfold restartClock
    rw [hc]
    rfl
  · dsimp only
    rw [exec_resume hr]
    have hpin : wakeFault (s.withPins { s.pins with wake := true }) = wakeFault s := wakeFault_congr rfl
    refine ⟨fun hi => ⟨congrArg _ (resume_of_not_dormant hi), congrArg Host.Outcome.next (wakeArrival_of_not_dormant hi)⟩,
      fun hi hf => ⟨congrArg _ (resume_of_no_fault hi hf), congrArg Host.Outcome.next ?_⟩,
      fun i hi hf => ⟨congrArg _ (resume_of_fault hi hf), congrArg Host.Outcome.next ?_⟩⟩
    · exact (wakeArrival_of_dormant hi hr).trans (wakeUp_of_no_fault (hpin.trans hf))
    · exact (wakeArrival_of_dormant hi hr).trans (wakeUp_of_fault (hpin.trans hf))

/-- Settles O44: the record of a command write, and what leaves it unchanged. -/
theorem everyCommandWriteIsRecorded : Obligations.EveryCommandWriteIsRecorded := by
  refine ⟨fun s code r => recordCommand_eq code r s, fun s c => recorded_runCommand c s, fun s code hr hc => ?_,
    fun s data lanes hr hl => ?_, fun s u data lanes hu => ?_⟩
  · refine congrArg Host.Outcome.next ((if_neg ?_).trans (decoded_of_reset_false _ hr))
    rw [hc]
    exact Bool.false_ne_true
  · exact congrArg Host.Outcome.next ((if_neg (Bool.eq_false_iff.1 hl)).trans (decoded_of_reset_false _ hr))
  · have hrecord : record u = record s := by
      simp only [List.mem_cons, List.not_mem_nil, or_false] at hu
      rcases hu with rfl | rfl | rfl | rfl
      · rfl
      · exact record_cut s
      · exact record_wakeArrival s
      · exact record_setupWritten data lanes s
    simpa only [record, Prod.mk.injEq] using hrecord

end Sys2Proof.Machine
end

section
/-! The ends of host tenures and the counts of the queue (R11, R42, R50, R73): O12, O17 and O18. -/

namespace Sys2Proof.Machine

/-! ### A decoded write leaves the drain's phase (R73, R87) -/

/-- What the end of a host tenure asks of the drain: past the drain cut, and with the scan OFF (R73). -/
def drainPhase (s : State) : Bool × ScanState := (s.ctl.istate.afterDrainCut, s.scan.state)

theorem drainPhase_congr {s t : State} (hi : t.ctl.istate = s.ctl.istate) (hs : t.scan = s.scan) : drainPhase t = drainPhase s := by
  unfold drainPhase; rw [hi, hs]

theorem drainPhase_recordCommand (code : Word) (r : Result) (s : State) : drainPhase (recordCommand code r s) = drainPhase s :=
  drainPhase_congr (recordCommand_istate _ _ _) (recordCommand_scan _ _ _)

/-- A change between two states that are not past the drain cut. -/
theorem drainPhase_move {s t : State} (hs : s.ctl.istate.afterDrainCut = false) (ht : t.ctl.istate.afterDrainCut = false)
    (hscan : t.scan.state = s.scan.state) : drainPhase t = drainPhase s := by
  unfold drainPhase; rw [hs, ht, hscan]

theorem drainPhase_engage (s : State) : drainPhase (engage s) = drainPhase s := by
  unfold engage
  split
  · exact drainPhase_recordCommand _ _ _
  · rename_i hi
    split
    · rw [drainPhase_recordCommand]
      exact drainPhase_move (by rw [Classical.not_not.1 hi]; rfl) rfl rfl
    · exact drainPhase_recordCommand _ _ _

theorem drainPhase_disengage (s : State) : drainPhase (disengage s) = drainPhase s := by
  unfold disengage
  split <;> rename_i hi <;> rw [drainPhase_recordCommand]
  · exact drainPhase_move (by rw [hi]; rfl) (by rw [applyReadySwitch_istate]; rfl) (by rw [applyReadySwitch_scan]; rfl)
  · exact drainPhase_move (by rw [hi]; rfl) rfl rfl
  · exact drainPhase_move (by rw [hi]; rfl) rfl rfl

theorem drainPhase_quiesce (s : State) : drainPhase (quiesce s) = drainPhase s := by
  unfold quiesce
  split
  · rename_i hi
    split <;> rw [drainPhase_recordCommand]
    exact drainPhase_move (by rw [hi]; rfl) rfl rfl
  all_goals exact drainPhase_recordCommand _ _ _

theorem drainPhase_resume (s : State) : drainPhase (resume s) = drainPhase s := by
  unfold resume
  split
  · exact drainPhase_recordCommand _ _ _
  · rename_i hi
    split <;> rw [drainPhase_recordCommand]
    · exact drainPhase_move (by rw [Classical.not_not.1 hi]; rfl) rfl rfl
    · rfl

theorem istate_commit (s : State) : (commit s).ctl.istate = s.ctl.istate := by
  unfold commit
  split
  · exact recordCommand_istate _ _ _
  · split
    · exact recordCommand_istate _ _ _
    · rw [recordCommand_istate, commitOpen_ctl]

theorem istate_fill (s : State) : (fill s).ctl.istate = s.ctl.istate := by
  unfold fill
  split <;> exact recordCommand_istate _ _ _

theorem istate_copy (s : State) : (copy s).ctl.istate = s.ctl.istate := by
  unfold copy
  split <;> exact recordCommand_istate _ _ _

theorem istate_movestop (s : State) : (movestop s).ctl.istate = s.ctl.istate := by
  unfold movestop
  split
  · exact recordCommand_istate _ _ _
  · split
    · exact recordCommand_istate _ _ _
    · split
      · exact recordCommand_istate _ _ _
      · rw [recordCommand_istate, moverEnds, noteWait_ctl]
        rfl

theorem istate_applyIfPassive (s : State) : (applyIfPassive s).ctl.istate = s.ctl.istate := by
  unfold applyIfPassive
  split
  · exact applyReadySwitch_istate s
  · rfl

theorem istate_clksel (s : State) : (clksel s).ctl.istate = s.ctl.istate := by
  unfold clksel
  split
  · exact recordCommand_istate _ _ _
  · split
    · exact recordCommand_istate _ _ _
    · split
      · exact recordCommand_istate _ _ _
      · split
        · exact recordCommand_istate _ _ _
        · rw [istate_applyIfPassive, recordCommand_istate]
          rfl

theorem istate_setptr (s : State) : (setptr s).ctl.istate = s.ctl.istate := by
  unfold setptr
  split <;> exact recordCommand_istate _ _ _

theorem drainPhase_runCommand (c : Command) (s : State) : drainPhase (runCommand c s) = drainPhase s := by
  cases c with
  | engage => exact drainPhase_engage s
  | disengage => exact drainPhase_disengage s
  | quiesce => exact drainPhase_quiesce s
  | resume => exact drainPhase_resume s
  | commit => exact drainPhase_congr (istate_commit s) (commit_scan s)
  | fill => exact drainPhase_congr (istate_fill s) (fill_scan s)
  | copy => exact drainPhase_congr (istate_copy s) (copy_scan s)
  | movestop => exact drainPhase_congr (istate_movestop s) (movestop_scan s)
  | clksel => exact drainPhase_congr (istate_clksel s) (clksel_scan s)
  | ack => exact drainPhase_recordCommand _ _ _
  | setptr => exact drainPhase_congr (istate_setptr s) (setptr_scan s)

theorem drainPhase_raiseIf (c : Bool) (e : Event) (s : State) : drainPhase (raiseIf c e s) = drainPhase s :=
  drainPhase_congr (raiseIf_istate _ _ _) (raiseIf_scan _ _ _)

theorem drainPhase_fieldStored (i : Fin 17) (v : Word) (s : State) : drainPhase (fieldStored i v s) = drainPhase s := by
  unfold fieldStored stageLo stageHi
  split
  · rfl
  · split
    · split
      · rfl
      · exact drainPhase_raiseIf _ _ _
    · rfl

theorem drainPhase_setupWritten (data : Word) (lanes : Lanes) (s : State) : drainPhase (setupWritten data lanes s) = drainPhase s := by
  unfold setupWritten
  split
  · rfl
  · split
    · rfl
    · exact drainPhase_fieldStored s.ctl.ptr data (storeField data s)

theorem drainPhase_commandWritten (data : Word) (lanes : Lanes) (s : State) :
    drainPhase (commandWritten data lanes s) = drainPhase s := by
  unfold commandWritten
  split
  · split
    · exact drainPhase_runCommand _ s
    · exact drainPhase_recordCommand _ _ _
  · exact drainPhase_recordCommand _ _ _

/-- The decoding of a taken write moves the part neither over nor back from the drain cut (R73). -/
theorem drainPhase_controlTaken (w : HostWrite) (s : State) : drainPhase (controlTaken w s) = drainPhase s := by
  unfold controlTaken
  split
  · rename_i c _
    unfold decoded
    split
    · rfl
    · cases c with
      | command => exact drainPhase_commandWritten _ _ s
      | setupPort => exact drainPhase_setupWritten _ _ s
      | arg _ | status _ | other => rfl
  · rfl

/-- After a host tenure the path opens, or the port falls free, by the drain's phase (R73). -/
theorem afterHostTenure_of_phase (wake : Bool) {s t : State} (h : drainPhase t = drainPhase s) :
    afterHostTenure wake t =
      if s.ctl.istate.afterDrainCut = true ∧ s.scan.state = .off then openPath wake t else settle t := by
  obtain ⟨hi, hs⟩ := Prod.mk.inj h
  unfold afterHostTenure
  rw [hi, hs]

/-! ### The counts of the generations (R42) -/

/-- Every entry has one of the four generations. -/
theorem length_eq_countGen (q : List Entry) :
    q.length = countGen q .direct + countGen q .opn + countGen q .pending + countGen q .retiring := by
  induction q with
  | nil => rfl
  | cons e q ih =>
    have hcons : ∀ g, countGen (e :: q) g = countGen q g + if e.gen = g then 1 else 0 := fun g => by
      unfold countGen
      rw [List.filter_cons]
      by_cases hg : e.gen = g
      · rw [if_pos (beq_iff_eq.2 hg), if_pos hg, List.length_cons]
      · rw [if_neg fun h => hg (beq_iff_eq.1 h), if_neg hg, Nat.add_zero]
    simp only [hcons, List.length_cons, ih]
    cases e.gen <;> simp <;> omega

/-! ### The obligations -/

/-- Settles O12: the end of a direct write's tenure, the write decoded first. -/
theorem directWriteTenureEnds : Obligations.DirectWriteTenureEnds := by
  intro s w wake ht
  refine congrArg Host.Outcome.next ?_
  unfold hostWriteTenureEnd
  rw [ht]
  exact afterHostTenure_of_phase wake (drainPhase_controlTaken w _)

/-- Settles O17: the end of a host read's tenure. -/
theorem readTenureAnswers : Obligations.ReadTenureAnswers := by
  intro s a chosen l0 l1 wake ht
  refine congrArg Host.Outcome.next ?_
  unfold hostReadTenureEnd
  rw [ht]
  dsimp only
  rw [tenureAnswer, Memory.readWord, loByte_mkWord, hiByte_mkWord]
  exact afterHostTenure_of_phase wake rfl

/-- Settles O18: status word 5 is the sum of words 6 to 9. -/
theorem queueCountsAddUp : Obligations.QueueCountsAddUp := by
  intro s
  rw [statusWord_5, statusWord_6, statusWord_7, statusWord_8, statusWord_9, length_eq_countGen, BitVec.ofNat_add, BitVec.ofNat_add,
    BitVec.ofNat_add]

end Sys2Proof.Machine
end

section
/-! The arbiter's grants and the ends of a line fetch (R63 to R66, R70, R88 to R92): O22, O24 and O25. -/

namespace Sys2Proof.Machine

/-! ### The arbiter by its claimants (R64) -/

theorem grantOther_host {s : State} (hc : s.host.access.claims = true)
    (ht : s.port.toggle = .hostNext ∨ queueClaims s.mover s.queue = false) : grantOther s = grantHost s := by
  have hcond : (s.host.access.claims && (s.port.toggle == .hostNext || !queueClaims s.mover s.queue)) = true := by
    rw [hc, Bool.true_and, Bool.or_eq_true, beq_iff_eq, Bool.not_eq_true']
    exact ht
  exact if_pos hcond

theorem grantOther_queue {s : State} (hq : queueClaims s.mover s.queue = true)
    (ht : s.host.access.claims = false ∨ s.port.toggle = .queueNext) : grantOther s = grantRetire s := by
  have hcond : (s.host.access.claims && (s.port.toggle == .hostNext || !queueClaims s.mover s.queue)) = false := by
    rcases ht with ht | ht <;> rw [ht]
    · rfl
    · rw [hq, Bool.and_eq_false_iff]
      exact .inr rfl
  exact (if_neg (Bool.eq_false_iff.1 hcond)).trans (if_pos hq)

theorem grantOther_rest {s : State} (hc : s.host.access.claims = false) (hq : queueClaims s.mover s.queue = false) :
    grantOther s = if moverClaims s then grantStep s else s := by
  unfold grantOther
  rw [hc, hq, if_neg (by exact Bool.false_ne_true), if_neg Bool.false_ne_true]

theorem grantHost_read {s : State} {a : WordAddr} {lanes : Lanes} (h : s.host.access = .readClaim a lanes) :
    grantHost s = (s.withPort ⟨some (.hostRead a (chosenWord s a) (laneSource s a false).supplied (laneSource s a true).supplied),
      .queueNext⟩).withHost { s.host with access := .inTenure } := by
  unfold grantHost; rw [h]; rfl

theorem grantHost_write {s : State} {w : HostWrite} (h : s.host.access = .writeClaim w) :
    grantHost s = (s.withPort ⟨some (.hostWrite w), .queueNext⟩).withHost { s.host with access := .inTenure } := by
  unfold grantHost; rw [h]

theorem stepTenure_eq (m : Mover) :
    stepTenure m = if m.kind = .fill then .fillStep (min 8 m.remaining) else .copyStep (min 4 m.remaining) := by
  unfold stepTenure; cases m.kind <;> rfl

theorem claims_read {x : HostAccess} {a : WordAddr} {lanes : Lanes} (h : x = .readClaim a lanes) : x.claims = true := by
  rw [h]; rfl

theorem claims_write {x : HostAccess} {w : HostWrite} (h : x = .writeClaim w) : x.claims = true := by
  rw [h]; rfl

theorem queueClaims_split {m : Mover} {q older younger : List Entry} {e : Entry} (hq : q = older ++ e :: younger)
    (he : eligible m e = true) (hh : ∀ x ∈ q, x.state = .held) : queueClaims m q = true := by
  unfold queueClaims
  rw [Bool.and_eq_true, Bool.not_eq_true', List.any_eq_true, List.any_eq_false]
  refine ⟨⟨e, by rw [hq]; simp, he⟩, fun x hx => ?_⟩
  unfold Entry.isWriting
  rw [hh x hx]
  decide

/-! ### What a fetch leaves (R88 to R92) -/

/-- The scan state once the fetch of `line` has left: its buffer is `b`, and the walk pointer has advanced (R89). -/
def fetchScan (line : BitVec 8) (b : LineBuffer) (x : Scan) : Scan := { setBuffer x line b with walk := x.walk + 4 }

theorem fetchLeaves_eq (line : BitVec 8) (b : LineBuffer) (s : State) :
    fetchLeaves line b s = (s.withScan (fetchScan line b s.scan)).withPort { s.port with tenure := none } := rfl

/-- Only the walk pointer and the buffer of the line change (R89, R91). -/
theorem fetchScan_spec (line : BitVec 8) (b : LineBuffer) (x : Scan) :
    (fetchScan line b x).walk = x.walk + 4 ∧ bufferOf (fetchScan line b x) line = b ∧
      bufferOf (fetchScan line b x) (line + 1) = bufferOf x (line + 1) ∧
      { fetchScan line b x with walk := x.walk, bufA := x.bufA, bufB := x.bufB } = x := by
  refine ⟨rfl, ?_, ?_, ?_⟩
  · exact (bufferOf_withWalk _ _ _).trans (bufferOf_setBuffer x line b)
  · rw [bufferOf_next, bufferOf_next]
    exact otherBuffer_setBuffer x line b
  · unfold fetchScan setBuffer
    split <;> rfl

/-- The buffer that a fetch fills (R91). -/
def fetchedBuffer (line : BitVec 8) (s : State) : LineBuffer :=
  { bufferOf s.scan line with
    kind := entryKind (entryWord1 s), words := fetchedWords s, mark := entryMark (entryWord1 s), state := .ready }

theorem fetchedBuffer_eq (line : BitVec 8) (s : State) :
    fetchedBuffer line s = { bufferOf s.scan line with
      kind := if (entryWord1 s).getLsbD 15 then .dark else if (entryWord1 s).getLsbD 14 then .repeated else .data
      words := if (entryWord1 s).getLsbD 15 || (entryWord1 s).getLsbD 14 then []
        else (List.range s.lineWords).map fun i =>
          Memory.readWord s.mem (entryStart (entryWord0 s) (entryWord1 s) + BitVec.ofNat 20 i)
      mark := (entryWord1 s).getLsbD 13, state := .ready } := by
  unfold fetchedBuffer
  rw [fetchedWords_eq]
  rfl

/-- The buffer that an aborted fetch leaves (R92). -/
def abortedBuffer (line : BitVec 8) (cycles : BitVec 10) (s : State) : LineBuffer :=
  { bufferOf s.scan line with
    kind := .dark, words := [], mark := decide (2 ≤ cycles.toNat) && entryMark (entryWord1 s), state := .ready
    aborted := true }

theorem fetchEnds_eq (line : BitVec 8) (s : State) : fetchEnds line s = fetchLeaves line (fetchedBuffer line s) s := rfl

theorem fetchAborts_eq (line : BitVec 8) (c : BitVec 10) (s : State) :
    fetchAborts line c s = fetchLeaves line (abortedBuffer line c s) s := rfl

/-- The fetch has left and the read that preempted it is granted (R65, R70). -/
theorem settle_grantHost_fetchLeaves {s : State} {a : WordAddr} {lanes : Lanes} (h : s.host.access = .readClaim a lanes)
    (line : BitVec 8) (b : LineBuffer) :
    settle (grantHost (fetchLeaves line b s)) =
      ((s.withScan (fetchScan line b s.scan)).withPort ⟨some (.hostRead a (chosenWord s a) (laneSource s a false).supplied
        (laneSource s a true).supplied), .queueNext⟩).withHost { s.host with access := .inTenure } := by
  rw [grantHost_read (s := fetchLeaves line b s) h]
  exact settle_of_tenure rfl

theorem lastFetchCycle_iff (s : State) (line : BitVec 8) (p : Option (BitVec 10)) (c : BitVec 10) :
    lastFetchCycle s c = true ↔ (tenureOps s (.lineFetch line p)).length ≤ c.toNat + 1 := decide_eq_true_iff

/-! ### The obligations -/

/-- Settles O22: the arbiter, by the claimants in their order. -/
theorem portGrantsInOrder : Obligations.PortGrantsInOrder := by
  refine fun s => ⟨fun h => h.elim settle_of_not_sharing settle_of_tenure, fun hs ht => ⟨fun line hf => ?_, fun hf => ?_⟩⟩
  · rw [settle_fetch hs ht hf]
    have hbuf : bufferOf (grantFetch line s).scan line =
        { bufferOf s.scan line with line := line, state := .filling, mark := false, aborted := false } :=
      bufferOf_setBuffer _ _ _
    rw [hbuf]
    refine ⟨?_, ?_, rfl, rfl, rfl, rfl, grantFetch_host _ _, grantFetch_queue _ _⟩
    · unfold grantFetch
      rfl
    · exact (setBuffer_fetchDue _ _ _).trans rfl
  · rw [settle_other hs ht hf]
    refine ⟨fun a lanes ha htog => ?_, fun w ha htog => ?_, fun older e younger hq he ho hh hc => ?_,
      fun hc hq => ⟨fun hm => ?_, fun hm => ?_⟩⟩
    · rw [grantOther_host (claims_read ha) htog, grantHost_read ha]
    · rw [grantOther_host (claims_write ha) htog, grantHost_write ha]
    · rw [grantOther_queue (queueClaims_split hq he hh) hc, grantRetire, hq, startRetire_split he ho]
    · rw [grantOther_rest hc hq, if_pos hm, grantStep, stepTenure_eq]
    · rw [grantOther_rest hc hq, if_neg (Bool.eq_false_iff.1 hm)]

/-- Settles O24: the end of a fetch, and of one preempted in its last cycle. -/
theorem lineFetchFillsItsBuffer : Obligations.LineFetchFillsItsBuffer := by
  intro s line
  obtain ⟨hwalk, hbuf, hother, hrest⟩ := fetchScan_spec line (fetchedBuffer line s) s.scan
  have hbuf' := hbuf.trans (fetchedBuffer_eq line s)
  refine ⟨fun ht => ⟨_, ?_, hwalk, hbuf', hother, hrest⟩, fun c a lanes ht ha hlast => ⟨_, ?_, hwalk, hbuf', hother, hrest⟩,
    fun c ht hlast => ?_⟩
  · refine congrArg Host.Outcome.next ?_
    unfold lineFetchEnd
    rw [ht]
    rfl
  · refine congrArg Host.Outcome.next ?_
    unfold lineFetchEnd
    rw [ht]
    exact (if_pos ((lastFetchCycle_iff s line _ c).2 hlast)).trans (settle_grantHost_fetchLeaves ha line _)
  · refine congrArg Host.Outcome.next ?_
    unfold lineFetchEnd
    rw [ht]
    exact if_neg fun h => Nat.not_le.2 hlast ((lastFetchCycle_iff s line _ c).1 h)

/-- Settles O25: a preempted fetch is aborted, or ends in its last cycle. -/
theorem preemptionAbortsTheFetch : Obligations.PreemptionAbortsTheFetch := by
  intro s line c a lanes ht ha
  have hexec : exec .preemptedFetchCycleEnd s = .next (settle (grantHost (fetchLeaves line
      (if lastFetchCycle s c then fetchedBuffer line s else abortedBuffer line c s) s))) := by
    refine congrArg Host.Outcome.next ?_
    unfold preemptedCycleEnd
    rw [ht]
    dsimp only
    split <;> rfl
  rw [settle_grantHost_fetchLeaves ha] at hexec
  have hlast := lastFetchCycle_iff s line (some c) c
  obtain ⟨hwalk, hbuf, hother, hrest⟩ :=
    fetchScan_spec line (if lastFetchCycle s c then fetchedBuffer line s else abortedBuffer line c s) s.scan
  refine ⟨_, hexec, hwalk, ?_, fun hlt => ?_, fun hle => ?_, hother, hrest⟩
  · rw [hbuf]
    split <;> rfl
  · rw [hbuf, if_neg fun h => Nat.not_le.2 hlt (hlast.1 h)]
    rfl
  · rw [hbuf, if_pos (hlast.2 hle)]
    rfl

end Sys2Proof.Machine
end

section
/-! The control page and the pass-through path (R2, R3, R7, R8, R55, R74, R151, R170): O4 and O5. -/

namespace Sys2Proof.Machine

/-! ### The control page by word addresses (R3, R55) -/

/-- The word of the control page at a word offset `d` from its base. -/
def pageWord (d : Nat) : ControlWord :=
  if d = 0 then .command
  else if d < 7 then .arg (Fin.ofNat 6 (d - 1))
  else if d = 8 then .setupPort
  else if 0x80 ≤ d ∧ d < 0xA0 then .status (Fin.ofNat 32 (d - 0x80))
  else .other

/-- The word address of COMMAND, the first of the control page (R3). -/
def pageBase (cps : BitVec 3) : Nat := 0xFC000 + cps.toNat * 0x800

theorem controlBase_eq (cps : BitVec 3) : controlBase cps = 2 * pageBase cps := by
  unfold controlBase pageBase Config.controlBase0 Config.controlBytes
  omega

theorem controlOffset_eq (cps : BitVec 3) (a : WordAddr) :
    controlOffset cps a =
      if pageBase cps ≤ a.toNat ∧ a.toNat < pageBase cps + 0x800 then some (2 * (a.toNat - pageBase cps)) else none := by
  have hbytes : Config.controlBytes = 2 * 0x800 := rfl
  unfold controlOffset laneAddr
  rw [controlBase_eq, hbytes, ← Nat.mul_add, ← Nat.mul_sub]
  refine ite_congr (propext ?_) (fun _ => rfl) fun _ => rfl
  omega

theorem controlWord_eq (cps : BitVec 3) (a : WordAddr) :
    controlWord cps a =
      if pageBase cps ≤ a.toNat ∧ a.toNat < pageBase cps + 0x800 then some (pageWord (a.toNat - pageBase cps)) else none := by
  unfold controlWord
  rw [controlOffset_eq]
  split
  · rename_i h
    split at h
    · cases h
    · rename_i hout
      rw [if_neg hout]
  · rename_i o h
    split at h
    · rename_i hin
      rw [if_pos hin]
      obtain rfl := Option.some.inj h
      generalize a.toNat - pageBase cps = d
      have hhalf : 2 * d / 2 = d := Nat.mul_div_cancel_left _ (by decide)
      have h0 : 2 * d = 0 ↔ d = 0 := by omega
      have h7 : 2 * d < 0x00E ↔ d < 7 := by omega
      have h8 : 2 * d = 0x010 ↔ d = 8 := by omega
      have h80 : 0x100 ≤ 2 * d ∧ 2 * d < 0x140 ↔ 0x80 ≤ d ∧ d < 0xA0 := by omega
      simp only [pageWord, hhalf, h0, h7, h8, h80, apply_ite some]
    · cases h

section
variable {cps : BitVec 3} {a : WordAddr}

theorem controlWord_none_iff :
    controlWord cps a = none ↔ a.toNat < pageBase cps ∨ pageBase cps + 0x800 ≤ a.toNat := by
  rw [controlWord_eq]
  split
  · exact iff_of_false (Option.some_ne_none _) (by omega)
  · exact iff_of_true rfl (by omega)

theorem controlWord_some_iff {c : ControlWord} :
    controlWord cps a = some c ↔ (pageBase cps ≤ a.toNat ∧ a.toNat < pageBase cps + 0x800) ∧ pageWord (a.toNat - pageBase cps) = c := by
  rw [controlWord_eq]
  split
  · rename_i h
    exact ⟨fun hc => ⟨h, Option.some.inj hc⟩, fun hc => congrArg some hc.2⟩
  · rename_i h
    exact iff_of_false (Option.some_ne_none c).symm fun hc => h hc.1

theorem pageWord_command_iff (d : Nat) : pageWord d = .command ↔ d = 0 := by
  unfold pageWord
  split
  · rename_i h
    exact iff_of_true rfl h
  · rename_i h
    refine iff_of_false (fun hc => ?_) h
    repeat' split at hc
    all_goals cases hc

theorem pageWord_arg_iff (d : Nat) (n : Fin 6) : pageWord d = .arg n ↔ d = 1 + n.val := by
  unfold pageWord
  have hn := n.isLt
  repeat' split
  · exact iff_of_false ControlWord.noConfusion (by omega)
  · rw [ControlWord.arg.injEq, Fin.ext_iff]
    show (d - 1) % 6 = n.val ↔ _
    omega
  · exact iff_of_false ControlWord.noConfusion (by omega)
  · exact iff_of_false ControlWord.noConfusion (by omega)
  · exact iff_of_false ControlWord.noConfusion (by omega)

theorem pageWord_setupPort_iff (d : Nat) : pageWord d = .setupPort ↔ d = 8 := by
  unfold pageWord
  repeat' split
  · exact iff_of_false ControlWord.noConfusion (by omega)
  · exact iff_of_false ControlWord.noConfusion (by omega)
  · exact iff_of_true rfl (by omega)
  · exact iff_of_false ControlWord.noConfusion (by omega)
  · exact iff_of_false ControlWord.noConfusion (by omega)

theorem pageWord_status_iff (d : Nat) (k : Fin 32) : pageWord d = .status k ↔ d = 0x80 + k.val := by
  have hk := k.isLt
  unfold pageWord
  repeat' split
  · exact iff_of_false ControlWord.noConfusion (by omega)
  · exact iff_of_false ControlWord.noConfusion (by omega)
  · exact iff_of_false ControlWord.noConfusion (by omega)
  · rw [ControlWord.status.injEq, Fin.ext_iff]
    show (d - 0x80) % 32 = k.val ↔ _
    omega
  · exact iff_of_false ControlWord.noConfusion (by omega)

theorem controlWord_command_iff : controlWord cps a = some .command ↔ a.toNat = pageBase cps := by
  rw [controlWord_some_iff, pageWord_command_iff]
  omega

theorem controlWord_arg_iff (n : Fin 6) : controlWord cps a = some (.arg n) ↔ a.toNat = pageBase cps + 1 + n.val := by
  rw [controlWord_some_iff, pageWord_arg_iff]
  omega

theorem controlWord_setupPort_iff : controlWord cps a = some .setupPort ↔ a.toNat = pageBase cps + 8 := by
  rw [controlWord_some_iff, pageWord_setupPort_iff]
  omega

theorem controlWord_status_iff (k : Fin 32) : controlWord cps a = some (.status k) ↔ a.toNat = pageBase cps + 0x80 + k.val := by
  rw [controlWord_some_iff, pageWord_status_iff]
  omega

end

/-! ### The decoding of a taken write by the word it reaches (R8, R151) -/

theorem controlTaken_of_reset {s : State} (w : HostWrite) (h : s.pins.reset = true) : controlTaken w s = s := by
  unfold controlTaken
  split
  · exact decoded_of_reset _ h
  · rfl

theorem controlTaken_of_none {s : State} {w : HostWrite} (h : controlWord s.pins.cps w.addr = none) : controlTaken w s = s := by
  unfold controlTaken; rw [h]

theorem controlTaken_of_some {s : State} {w : HostWrite} {c : ControlWord} (h : controlWord s.pins.cps w.addr = some c) :
    controlTaken w s = decoded (wordWritten c w.data w.lanes) s := by
  unfold controlTaken; rw [h]

/-- A word of the control page that a write does not decode: a status word, or a word of no use (R58, R171). -/
theorem controlTaken_of_undecoded {s : State} {w : HostWrite} {c : ControlWord} (h : controlWord s.pins.cps w.addr = some c)
    (hc : ∀ t, wordWritten c w.data w.lanes t = t) : controlTaken w s = s := by
  rw [controlTaken_of_some h, decoded, hc, ite_self]

theorem lanes_of_full {l : Lanes} (h : (l.lane0 && l.lane1) = true) : l = ⟨true, true⟩ := by
  obtain ⟨h0, h1⟩ := (Bool.and_eq_true _ _).mp h
  rcases l with ⟨l0, l1⟩
  cases h0
  cases h1
  rfl

theorem commandWritten_command (c : Command) (s : State) : commandWritten c.code ⟨true, true⟩ s = runCommand c s := by
  refine (if_pos rfl).trans ?_
  rw [commandOfCode_code]

theorem commandWritten_unknown {data : Word} (h : commandOfCode data = none) (s : State) :
    commandWritten data ⟨true, true⟩ s = unknownCommand data s := by
  refine (if_pos rfl).trans ?_
  rw [h]

theorem exec_commit {s : State} (h : s.pins.reset = false) : exec .commit s = .next (commit s) :=
  congrArg Host.Outcome.next (decoded_of_reset_false _ h)

theorem exec_unknownCommand {s : State} {code : Word} (hc : commandOfCode code = none) (h : s.pins.reset = false) :
    exec (.unknownCommand code) s = .next (unknownCommand code s) := by
  refine congrArg Host.Outcome.next ((if_neg ?_).trans (decoded_of_reset_false _ h))
  rw [hc]
  exact Bool.false_ne_true

theorem exec_malformedCommand {s : State} {data : Word} {lanes : Lanes} (hl : lanes.full = false) (h : s.pins.reset = false) :
    exec (.malformedCommand data lanes) s = .next (malformedCommand data lanes s) :=
  congrArg Host.Outcome.next ((if_neg (Bool.eq_false_iff.1 hl)).trans (decoded_of_reset_false _ h))

/-- What a full word of each value does at COMMAND, as the command rows give it (R153). -/
theorem next_commandWritten {s : State} (data : Word) (hr : s.pins.reset = false) :
    Host.Outcome.next (commandWritten data ⟨true, true⟩ s) =
      if data = 0x5301 then exec .engage s else if data = 0x5302 then exec .disengage s
      else if data = 0x5303 then exec .quiesce s else if data = 0x5304 then exec .resume s
      else if data = 0x5310 then exec .commit s else if data = 0x5320 then .next (fill s)
      else if data = 0x5321 then .next (copy s) else if data = 0x5322 then .next (movestop s)
      else if data = 0x5330 then exec .clksel s else if data = 0x5340 then exec .ack s
      else if data = 0x5341 then exec .setptr s else exec (.unknownCommand data) s := by
  rcases hc : commandOfCode data with _ | c
  · have hne : ∀ c : Command, data ≠ c.code := fun c h => by
      rw [h, commandOfCode_code] at hc
      cases hc
    rw [commandWritten_unknown hc, if_neg (show ¬data = 0x5301 from hne .engage), if_neg (show ¬data = 0x5302 from hne .disengage),
      if_neg (show ¬data = 0x5303 from hne .quiesce), if_neg (show ¬data = 0x5304 from hne .resume),
      if_neg (show ¬data = 0x5310 from hne .commit), if_neg (show ¬data = 0x5320 from hne .fill),
      if_neg (show ¬data = 0x5321 from hne .copy), if_neg (show ¬data = 0x5322 from hne .movestop),
      if_neg (show ¬data = 0x5330 from hne .clksel), if_neg (show ¬data = 0x5340 from hne .ack),
      if_neg (show ¬data = 0x5341 from hne .setptr), exec_unknownCommand hc hr]
  · obtain rfl := code_of_commandOfCode hc
    rw [commandWritten_command]
    cases c with
    | engage => exact (exec_engage hr).symm
    | disengage => exact (exec_disengage hr).symm
    | quiesce => exact (exec_quiesce hr).symm
    | resume => exact (exec_resume hr).symm
    | commit => exact (exec_commit hr).symm
    | fill | copy | movestop => rfl
    | clksel => exact (exec_clksel hr).symm
    | ack => exact (exec_ack hr).symm
    | setptr => exact (exec_setptr hr).symm

/-! ### Host accesses over the pass-through path (R1, R2, R7) -/

theorem readTaken_of_not_intervened {s : State} {a : WordAddr} (lanes : Lanes) (cycle : BitVec 10)
    (h : (controlWord s.pins.cps a).any intervened = false) : readTaken a lanes cycle s = readWordTaken a lanes cycle s := by
  unfold readTaken
  rcases hc : controlWord s.pins.cps a with _ | c
  · rfl
  · rw [hc] at h
    exact if_neg (Bool.eq_false_iff.1 h)

/-- A host write in memory, byte by byte (R170). -/
theorem readByte_writeMemory {m : Memory} (h : Memory.wf m = true) (w : HostWrite) (b : Nat) :
    Memory.readByte (writeMemory w m) b =
      if b = 2 * w.addr.toNat ∧ w.lanes.lane0 = true then w.data.extractLsb' 0 8
      else if b = 2 * w.addr.toNat + 1 ∧ w.lanes.lane1 = true then w.data.extractLsb' 8 8
      else Memory.readByte m b := by
  show Memory.readByte (Memory.writeLanes m w.addr (laneByte0 w.data w.lanes) (laneByte1 w.data w.lanes)) b = _
  rw [Memory.readByte_writeLanes h, laneAddr, laneByte0, laneByte1]
  by_cases h0 : b = 2 * w.addr.toNat
  · cases w.lanes.lane0 <;> simp [h0, loByte]
  · cases w.lanes.lane1 <;> simp [h0, hiByte]

/-! ### The obligations -/

/-- Settles O4: a read and a write over the pass-through path, and its pins. -/
theorem passThroughReachesMemory : Obligations.PassThroughReachesMemory := by
  refine ⟨fun s a lanes cycle hs hb hc => ?_, fun s a data lanes hs hb hwf => ⟨writeMemory ⟨a, data, lanes⟩ s.mem, ?_,
    readByte_writeMemory hwf ⟨a, data, lanes⟩⟩, fun s h n hs => ?_⟩
  · refine (oneAtATime_of_not_busy _ hb).trans (congrArg Host.Outcome.next ?_)
    rw [readTaken_of_not_intervened lanes cycle hc, readWordTaken, hs, if_neg Bool.false_ne_true]
    rfl
  · refine (oneAtATime_of_not_busy _ hb).trans (congrArg Host.Outcome.next ?_)
    rw [writePresented, hs, if_neg Bool.false_ne_true]
    rfl
  · have hi := interceptsRead_iff s h
    refine ⟨passPins s h, memPins_passThrough h n hs, rfl, rfl, rfl, ?_, ?_, fun hcs hwr => ?_, fun hno => ?_⟩
    · show (h.hcs && !interceptsRead s h) = true ↔ _
      rw [Bool.and_eq_true, Bool.not_eq_true', ← Bool.not_eq_true, hi]
      exact and_congr_right fun hcs => not_congr (and_iff_right hcs)
    · show (h.hrd && !interceptsRead s h) = true ↔ _
      rw [Bool.and_eq_true, Bool.not_eq_true', ← Bool.not_eq_true, hi]
      exact and_congr_right fun hrd => not_congr (and_congr_right fun _ => and_iff_right hrd)
    · exact if_pos (by rw [hcs, hwr]; rfl)
    · exact if_neg fun hc => by
        rcases hno with h0 | h0 <;> simp [h0] at hc

/-- Settles O5: the words of the control page, and what a taken write does at each. -/
theorem takenWritesAreDecoded : Obligations.TakenWritesAreDecoded := by
  refine ⟨fun cps a => ⟨controlWord_command_iff, controlWord_arg_iff, controlWord_setupPort_iff, controlWord_status_iff,
    controlWord_none_iff⟩, fun s w => ⟨controlTaken_of_reset w, fun hr hc => ?_, fun hr n hc => ?_, fun hr hc => ?_,
    fun k hc => ?_, fun hc => ?_, controlTaken_of_none⟩⟩
  · rw [controlTaken_of_some hc, decoded_of_reset_false _ hr]
    rcases hl : w.lanes.lane0 && w.lanes.lane1 with _ | _
    · rw [if_neg Bool.false_ne_true, exec_malformedCommand hl hr]
      exact congrArg Host.Outcome.next (if_neg (Bool.eq_false_iff.1 hl))
    · rw [if_pos rfl, ← next_commandWritten w.data hr, lanes_of_full hl]
      rfl
  · exact congrArg Host.Outcome.next (controlTaken_of_some hc)
  · exact congrArg Host.Outcome.next (controlTaken_of_some hc)
  · exact controlTaken_of_undecoded hc fun _ => rfl
  · exact controlTaken_of_undecoded hc fun _ => rfl

end Sys2Proof.Machine
end

section
/-! The treatment of a host write while the part shares the memory (R3 to R6, R10 to R15, R21 to R28): O6 to O11. -/

namespace Sys2Proof.Machine

/-! ### The class and the generation of a write, in numbers (R3 to R5, R10) -/

theorem classify_control_iff (s : State) (a : WordAddr) :
    classify s a = .control ↔ 0xFC000 + s.pins.cps.toNat * 0x800 ≤ a.toNat ∧ a.toNat < 0xFC800 + s.pins.cps.toNat * 0x800 := by
  have hpage : (controlOffset s.pins.cps a).isSome = true ↔
      0xFC000 + s.pins.cps.toNat * 0x800 ≤ a.toNat ∧ a.toNat < 0xFC800 + s.pins.cps.toNat * 0x800 := by
    rw [controlOffset_eq, pageBase]
    split
    · exact iff_of_true rfl (by omega)
    · exact iff_of_false Bool.false_ne_true (by omega)
  rw [← hpage]
  unfold classify
  split
  · rename_i hc
    exact iff_of_true rfl hc
  · rename_i hc
    refine iff_of_false (fun h => ?_) hc
    split at h <;> cases h

/-- A word lies in an enabled window, in numbers (R4). -/
theorem inWindow_iff (setup : Vector Word 17) (a : WordAddr) (w : Fin 17 × Fin 17) :
    inWindow setup (pageOf a) w = true ↔ 0x8000 ≤ (setup.get w.1).toNat ∧ (setup.get w.1).toNat % 0x2000 ≤ a.toNat / 128 ∧
      a.toNat / 128 ≤ (setup.get w.2).toNat % 0x2000 := by
  have hpage : pageOf a = a.toNat / 128 := by
    unfold pageOf laneAddr
    omega
  rw [inWindow, Bool.and_eq_true, Bool.and_eq_true, decide_eq_true_eq, decide_eq_true_eq, windowEnabled_iff, windowFirst_eq,
    windowLast_eq, hpage, and_assoc]

/-- A word in an enabled window (R4). -/
def inSomeWindow (s : State) (a : WordAddr) : Prop :=
  let f := fun i : Fin 17 => (s.ctl.setup.get i).toNat
  let window := fun i j : Fin 17 => 0x8000 ≤ f i ∧ f i % 0x2000 ≤ a.toNat / 128 ∧ a.toNat / 128 ≤ f j % 0x2000
  window 8 9 ∨ window 10 11 ∨ window 12 13 ∨ window 14 15

theorem any_inWindow_iff (s : State) (a : WordAddr) :
    windowFields.any (inWindow s.ctl.setup (pageOf a)) = true ↔ inSomeWindow s a := by
  simp only [windowFields, List.any_cons, List.any_nil, Bool.or_false, Bool.or_eq_true, inWindow_iff, inSomeWindow]

theorem classify_display_iff (s : State) (a : WordAddr) :
    classify s a = .display ↔ ¬ classify s a = .control ∧ inSomeWindow s a := by
  rw [← any_inWindow_iff]
  by_cases hc : (controlOffset s.pins.cps a).isSome = true
  · simp [classify, hc]
  · by_cases hw : windowFields.any (inWindow s.ctl.setup (pageOf a)) = true <;> simp [classify, hc, hw]

theorem classify_plain_iff (s : State) (a : WordAddr) :
    classify s a = .plain ↔ ¬ classify s a = .control ∧ ¬ classify s a = .display := by
  cases classify s a <;> decide

theorem writeGeneration_opn_iff (s : State) (a : WordAddr) :
    writeGeneration s a = .opn ↔ classify s a = .display ∧ s.ctl.mode.sharing ≠ .direct := by
  unfold writeGeneration
  split
  · rename_i h
    exact iff_of_true rfl h
  · rename_i h
    exact iff_of_false Generation.noConfusion h

theorem writeGeneration_direct_iff (s : State) (a : WordAddr) :
    writeGeneration s a = .direct ↔ ¬(classify s a = .display ∧ s.ctl.mode.sharing ≠ .direct) := by
  unfold writeGeneration
  split
  · rename_i h
    exact iff_of_false Generation.noConfusion (Classical.not_not.2 h)
  · rename_i h
    exact iff_of_true rfl h

/-! ### When a write may go direct (R6, R11, R14) -/

theorem toNat_blockOf (a : WordAddr) : (blockOf a).toNat = a.toNat / 8 := by
  have ha := a.isLt
  rw [blockOf, BitVec.extractLsb'_toNat, Nat.shiftRight_eq_div_pow]
  omega

theorem moverMeets_false_iff (m : Mover) (a : WordAddr) :
    moverMeets m (blockOf a) = false ↔
      ∀ x, x / 8 = a.toNat / 8 → (destRange m).has x = false ∧ (srcRange m).has x = false := by
  rw [moverMeets, Bool.or_eq_false_iff, ← Bool.not_eq_true, ← Bool.not_eq_true, WordRange.meets_iff, WordRange.meets_iff]
  simp only [not_exists, not_and, Bool.not_eq_true]
  exact ⟨fun ⟨hd, hs⟩ x hx => ⟨hd x hx, hs x hx⟩, fun h => ⟨fun x hx => (h x hx).1, fun x hx => (h x hx).2⟩⟩

theorem queueHasBlock_false_iff (q : List Entry) (a : WordAddr) :
    queueHasBlock q (blockOf a) = false ↔ ∀ e ∈ q, e.block.toNat ≠ a.toNat / 8 := by
  rw [queueHasBlock, List.any_eq_false]
  refine forall₂_congr fun e _ => not_congr ?_
  rw [beq_iff_eq, ← toNat_blockOf, BitVec.toNat_inj]

theorem queueClaims_false_iff (m : Mover) (q : List Entry) :
    queueClaims m q = false ↔
      ((∃ e ∈ q, (e.gen = .direct ∨ e.gen = .retiring) ∧ e.state = .held ∧ blocked m e = false) → ∃ e ∈ q, e.state = .writing) := by
  have hw : ∀ e : Entry, e.isWriting = true ↔ e.state = .writing := fun e => beq_iff_eq
  rw [← Bool.not_eq_true, queueClaims, Bool.and_eq_true, Bool.not_eq_true', ← Bool.not_eq_true, List.any_eq_true,
    List.any_eq_true]
  simp only [eligible_iff, hw]
  exact not_and.trans (imp_congr_right fun _ => Classical.not_not)

theorem claims_false_iff (x : HostAccess) :
    x.claims = false ↔ (∀ b lanes, x ≠ .readClaim b lanes) ∧ ∀ v, x ≠ .writeClaim v := by
  cases x <;> simp [HostAccess.claims]

theorem moverClaims_false_iff {s : State} (ht : s.port.tenure = none) :
    moverClaims s = false ↔ (s.mover.active = true → s.mover.length.toNat ≤ s.mover.done.toNat) := by
  have hstep : stepInProgress s = false := by
    unfold stepInProgress
    rw [ht]
    rfl
  unfold moverClaims Mover.remaining
  rw [hstep, Bool.not_false, Bool.and_true, Bool.and_eq_false_iff, decide_eq_false_iff_not]
  have hle : ¬0 < s.mover.length.toNat - s.mover.done.toNat ↔ s.mover.length.toNat ≤ s.mover.done.toNat := by omega
  rw [hle]
  cases s.mover.active
  · exact iff_of_true (.inl rfl) fun h => absurd h Bool.false_ne_true
  · exact ⟨fun h _ => h.resolve_left Bool.noConfusion, fun h => .inr (h rfl)⟩

theorem portFree_iff (s : State) :
    portFree s = true ↔ s.port.tenure = none ∧ s.scan.fetchDue = none ∧ s.host.access.claims = false ∧
      queueClaims s.mover s.queue = false ∧ moverClaims s = false := by
  rw [portFree, claimWaiting, Bool.and_eq_true, Option.isNone_iff_eq_none, Bool.not_eq_true', Bool.or_eq_false_iff,
    Bool.or_eq_false_iff, Bool.or_eq_false_iff, Option.isSome_eq_false_iff, Option.isNone_iff_eq_none, and_assoc, and_assoc]

theorem mayGoDirect_iff (s : State) (a : WordAddr) :
    mayGoDirect s a = true ↔ writeGeneration s a = .direct ∧ moverMeets s.mover (blockOf a) = false ∧
      queueHasBlock s.queue (blockOf a) = false ∧ portFree s = true := by
  rw [mayGoDirect, Bool.and_eq_true, Bool.and_eq_true, Bool.and_eq_true, beq_iff_eq, Bool.not_eq_true', Bool.not_eq_true',
    and_assoc, and_assoc]

/-! ### Decisions by their treatments (R2, R15, R21 to R24) -/

/-- A write presented in RUNNING or DRAINING, by its treatment (R2). -/
theorem exec_hostWrite_of_treatment {s : State} {w : HostWrite} {t : Treatment} (hs : sharing s = true)
    (hb : s.host.access.busy = false) (ht : treatment s w = t) (hf : t ≠ .full) :
    exec (.hostWrite w.addr w.data w.lanes) s = .next (settle (carryOut w t (s.withHost ⟨.none, false, s.host.data⟩))) := by
  rw [exec_hostWrite_sharing w hs hb, decideWrite_presented hb ht hf]

/-- A held write whose wait has ended is decided against the state as it stands (R24). -/
theorem exec_heldWrite {s : State} {w : HostWrite} {why : WaitFor} (h : s.host.access = .writeWait w why true) :
    exec .heldWriteDecidedAfresh s = .next (settle (decideWrite w s)) := by
  refine congrArg Host.Outcome.next ?_
  unfold heldWriteDecided
  rw [h]

theorem exec_heldWrite_of_treatment {s : State} {w : HostWrite} {why : WaitFor} {t : Treatment}
    (h : s.host.access = .writeWait w why true) (ht : treatment s w = t) (hf : t ≠ .full) :
    exec .heldWriteDecidedAfresh s = .next (settle (carryOut w t s)) := by
  rw [exec_heldWrite h, decideWrite_of_not_full ht hf]

theorem treatment_presented {s : State} {w : HostWrite} (hb : s.host.access.busy = false) :
    treatment (s.withHost ⟨.none, false, s.host.data⟩) w = treatment s w :=
  treatment_withHost (h := ⟨.none, false, s.host.data⟩) (HostAccess.claims_of_not_busy hb).symm w

theorem exec_hostWrite_of_full {s : State} {w : HostWrite} (hs : sharing s = true) (hb : s.host.access.busy = false)
    (ht : treatment s w = .full) (hsp : spills s = false) :
    exec (.hostWrite w.addr w.data w.lanes) s =
      .next (settle (s.withHost ⟨.writeWait w .entryLeaves false, false, s.host.data⟩)) := by
  rw [exec_hostWrite_sharing w hs hb,
    decideWrite_of_full ((treatment_presented hb).trans ht) ((spills_withHost s _).trans hsp)]
  rfl

/-- A decision that spills (R27, R28). -/
theorem decideWrite_of_spill {s : State} {w : HostWrite} (hl : w.lanes.empty = false) (hd : s.ctl.istate.afterDrainCut = false)
    (ht : treatment s w = .full) (hsp : spills s = true) :
    ((commitQueue s.queue).length < 64 →
      decideWrite w s = takeWrite w ((spill s).withQueue (commitQueue s.queue ++ [newEntry w (writeGeneration s w.addr)]))) ∧
    (64 ≤ (commitQueue s.queue).length → decideWrite w s = waitFor w .entryLeaves (spill s)) := by
  have hdecide : decideWrite w s = carryOut w (treatment (spill s) w) (spill s) := if_pos ⟨ht, hsp⟩
  rw [hdecide, treatment_spill hl hd ht]
  refine ⟨fun h => ?_, fun h => ?_⟩
  · rw [if_pos h]
    rfl
  · rw [if_neg (Nat.not_lt.2 h)]
    rfl

section
variable {s : State} {w : HostWrite}

theorem treatment_post (hl : w.lanes.empty = false) (hd : s.ctl.istate.afterDrainCut = false)
    (hf : findEntry s.queue (blockOf w.addr) (writeGeneration s w.addr) = none) (hm : mayGoDirect s w.addr = false)
    (hq : s.queue.length < 64) : treatment s w = .post (writeGeneration s w.addr) := by
  rw [treatment_of_no_entry hl hd hf, if_neg (Bool.eq_false_iff.1 hm), if_neg (Nat.not_le.2 hq)]

theorem treatment_full (hl : w.lanes.empty = false) (hd : s.ctl.istate.afterDrainCut = false)
    (hf : findEntry s.queue (blockOf w.addr) (writeGeneration s w.addr) = none) (hm : mayGoDirect s w.addr = false)
    (hq : 64 ≤ s.queue.length) : treatment s w = .full := by
  rw [treatment_of_no_entry hl hd hf, if_neg (Bool.eq_false_iff.1 hm), if_pos hq]

theorem treatment_direct (hl : w.lanes.empty = false) (hd : s.ctl.istate.afterDrainCut = false)
    (hm : mayGoDirect s w.addr = true) : treatment s w = .direct := by
  have hblock : queueHasBlock s.queue (blockOf w.addr) = false := ((mayGoDirect_iff s w.addr).1 hm).2.2.1
  have hnone : findEntry s.queue (blockOf w.addr) (writeGeneration s w.addr) = none := by
    rw [findEntry_none]
    rintro e he ⟨hb, _⟩
    exact (queueHasBlock_false_iff _ _).1 hblock e he (by rw [hb, toNat_blockOf])
  rw [treatment_of_no_entry hl hd hnone, if_pos hm]

theorem treatment_merge (hl : w.lanes.empty = false) (hd : s.ctl.istate.afterDrainCut = false) {e : Entry}
    (hf : findEntry s.queue (blockOf w.addr) (writeGeneration s w.addr) = some e) (he : e.state = .held) :
    treatment s w = .merge (writeGeneration s w.addr) := by
  rw [treatment_of_entry hl hd hf, if_neg (by unfold Entry.isWriting; rw [he]; decide)]

theorem treatment_writing (hl : w.lanes.empty = false) (hd : s.ctl.istate.afterDrainCut = false) {e : Entry}
    (hf : findEntry s.queue (blockOf w.addr) (writeGeneration s w.addr) = some e) (he : e.state = .writing) :
    treatment s w = .await .writingEnds := by
  rw [treatment_of_entry hl hd hf, if_pos (by unfold Entry.isWriting; rw [he]; rfl)]

theorem treatment_claim (hl : w.lanes.empty = false) (hd : s.ctl.istate.afterDrainCut = true)
    (hb : blockClear s (blockOf w.addr) = true) : treatment s w = .direct := by
  rw [treatment_of_drained hl hd, if_pos hb]

theorem treatment_block (hl : w.lanes.empty = false) (hd : s.ctl.istate.afterDrainCut = true)
    (hb : blockClear s (blockOf w.addr) = false) : treatment s w = .await .blockClears := by
  rw [treatment_of_drained hl hd, if_neg (Bool.eq_false_iff.1 hb)]

/-- No spill is made outside COMMIT mode, or without an OPEN entry (R27). -/
theorem spills_false (h : s.ctl.mode.sharing = .commit → hasGen s.queue .opn = false) : spills s = false := by
  rw [spills, Bool.and_eq_false_iff, beq_eq_false_iff_ne]
  exact (Classical.em _).elim (fun hc => .inr (h hc)) .inl

theorem spills_true (hm : s.ctl.mode.sharing = .commit) (ho : hasGen s.queue .opn = true) : spills s = true := by
  rw [spills, hm, ho]
  rfl

end

theorem noteWait_of_wait {s : State} {w : HostWrite} {why : WaitFor} {due : Bool} (h : s.host.access = .writeWait w why due)
    (left retired : Bool) :
    noteWait left retired s =
      s.withHost { s.host with access := .writeWait w why (due || waitEnds s w left retired why) } := by
  unfold noteWait; rw [h]

theorem noteWait_of_no_wait {s : State} (h : ∀ w why due, s.host.access ≠ .writeWait w why due) (left retired : Bool) :
    noteWait left retired s = s := by
  unfold noteWait
  split
  · rename_i w why due hw
    exact absurd hw (h w why due)
  all_goals rfl

/-! ### The bytes of a merged entry (R22) -/

/-- The bytes of an entry after a write merges into it. -/
def mergedBytes (w : HostWrite) (e : Entry) : List (Option Byte) := overlay (writeBytes w) e.bytes

theorem mergedBytes_length (w : HostWrite) {e : Entry} (h : e.bytes.length = 16) : (mergedBytes w e).length = 16 :=
  (overlay_length ((writeBytes_length w).trans h.symm)).trans h

theorem mergedBytes_get (w : HostWrite) {e : Entry} (h : e.bytes.length = 16) {k : Nat} (hk : k < 16) :
    (mergedBytes w e)[k]? = some
      (if k = 2 * (w.addr.toNat % 8) ∧ w.lanes.lane0 = true then some (w.data.extractLsb' 0 8)
       else if k = 2 * (w.addr.toNat % 8) + 1 ∧ w.lanes.lane1 = true then some (w.data.extractLsb' 8 8) else e.byteAt k) := by
  have hold : e.bytes[k]? = some (e.byteAt k) := by
    unfold Entry.byteAt
    rw [List.getElem?_eq_getElem (h.symm ▸ hk)]
    rfl
  rw [mergedBytes, overlay_get (writeBytes_get w hk) hold]
  repeat' split
  all_goals rfl

theorem mergeWrite_at {q older younger : List Entry} {e : Entry} (hq : q = older ++ e :: younger) (h : QueueSound q)
    {w : HostWrite} {g : Generation} (hb : e.block = blockOf w.addr) (hg : e.gen = g) :
    mergeWrite q w g = older ++ { e with bytes := mergedBytes w e } :: younger := by
  subst hq
  exact mergeWrite_split h.2.2.1 hb hg

theorem findEntry_at {q older younger : List Entry} {e : Entry} (hq : q = older ++ e :: younger) (h : QueueSound q)
    {b : BlockNo} {g : Generation} (hb : e.block = b) (hg : e.gen = g) : findEntry q b g = some e := by
  subst hb hg
  exact findEntry_of_mem h.2.2.1 (by rw [hq]; simp)

/-! ### The obligations -/

/-- Settles O6: the class and generation of a write, and a write that is posted. -/
theorem postedWriteTakesANewEntry : Obligations.PostedWriteTakesANewEntry := by
  refine ⟨fun s a => ?_, fun s a data lanes hs hb hd hl hf hm hq => ⟨writeBytes ⟨a, data, lanes⟩, ?_,
    writeBytes_length _, fun k hk => writeBytes_get ⟨a, data, lanes⟩ hk⟩⟩
  · dsimp only
    rw [writeGeneration_opn_iff, writeGeneration_direct_iff, classify_plain_iff, classify_display_iff, classify_control_iff]
    exact ⟨Iff.rfl, Iff.rfl, Iff.rfl, Iff.rfl, Iff.rfl⟩
  · exact exec_hostWrite_of_treatment (w := ⟨a, data, lanes⟩) hs hb (treatment_post hl hd hf hm hq) Treatment.noConfusion

/-- Settles O7: a write that merges. -/
theorem mergedWriteReplacesItsBytes : Obligations.MergedWriteReplacesItsBytes := by
  intro s a data lanes older younger e hs hb hd hl hq hsound hblock hgen hheld
  have hlen : e.bytes.length = 16 := (hsound.2.1 e (by rw [hq]; simp)).1
  refine ⟨mergedBytes ⟨a, data, lanes⟩ e, ?_, mergedBytes_length _ hlen, fun k hk => mergedBytes_get ⟨a, data, lanes⟩ hlen hk⟩
  rw [← mergeWrite_at (w := ⟨a, data, lanes⟩) hq hsound hblock hgen]
  exact exec_hostWrite_of_treatment (w := ⟨a, data, lanes⟩) hs hb
    (treatment_merge hl hd (findEntry_at hq hsound hblock hgen) hheld) Treatment.noConfusion

/-- A write claim at a free port is granted at once (R63, R65). -/
theorem settle_writeClaim {s : State} {w : HostWrite} {h : HostBus} (hs : sharing s = true) (hp : portFree s = true)
    (ha : h.access = .writeClaim w) :
    settle (s.withHost h) = (s.withPort ⟨some (.hostWrite w), .queueNext⟩).withHost { h with access := .inTenure } := by
  obtain ⟨ht, hf, _, hq, _⟩ := (portFree_iff s).1 hp
  rw [settle_other ((sharing_withHost s h).trans hs) ht hf]
  exact (grantOther_host (s := s.withHost h) (claims_write ha) (.inr hq)).trans (grantHost_write ha)

/-- Settles O8: when a write may go direct, and its grant. -/
theorem directWriteTakesTheFreePort : Obligations.DirectWriteTakesTheFreePort := by
  refine ⟨fun s a => ?_, fun s w hs hd hl hm => ?_⟩
  · rw [mayGoDirect_iff, portFree_iff, moverMeets_false_iff, queueHasBlock_false_iff, claims_false_iff, queueClaims_false_iff]
    refine and_congr_right' (and_congr_right' (and_congr_right' (and_congr_right fun ht => and_congr_right' ?_)))
    rw [moverClaims_false_iff ht, and_assoc]
  · have hp := ((mayGoDirect_iff s w.addr).1 hm).2.2.2
    have ht := treatment_direct hl hd hm
    refine ⟨fun hb => ?_, fun why hw => ?_⟩
    · rw [exec_hostWrite_of_treatment hs hb ht Treatment.noConfusion]
      exact congrArg Host.Outcome.next (settle_writeClaim (s := s) (h := ⟨.writeClaim w, false, s.host.data⟩) hs hp rfl)
    · rw [exec_heldWrite_of_treatment hw ht Treatment.noConfusion]
      exact congrArg _ (settle_writeClaim hs hp rfl)

/-- Settles O9: writes that wait, that claim after the drain cut, and empty writes. -/
theorem writesThatWaitDrainOrAreEmpty : Obligations.WritesThatWaitDrainOrAreEmpty := by
  refine ⟨fun s a data lanes hs hb hl => ⟨fun hd e hf he => ?_, fun hd hf hm hq hsp => ?_, fun hd hc => ?_⟩,
    fun s a data lanes hs hb => ⟨fun hl hd hc => ?_, fun hl => ?_⟩⟩
  · exact exec_hostWrite_of_treatment (w := ⟨a, data, lanes⟩) hs hb (treatment_writing hl hd hf he) Treatment.noConfusion
  · exact exec_hostWrite_of_full (w := ⟨a, data, lanes⟩) hs hb (treatment_full hl hd hf hm hq) (spills_false hsp)
  · exact exec_hostWrite_of_treatment (w := ⟨a, data, lanes⟩) hs hb (treatment_block hl hd hc) Treatment.noConfusion
  · exact exec_hostWrite_of_treatment (w := ⟨a, data, lanes⟩) hs hb (treatment_claim hl hd hc) Treatment.noConfusion
  · exact exec_hostWrite_of_treatment (w := ⟨a, data, lanes⟩) hs hb (treatment_of_empty hl) Treatment.noConfusion


/-- Settles O10: a spill, for a write presented and for a held one. -/
theorem spillFreesRoomOrTheWriteWaits : Obligations.SpillFreesRoomOrTheWriteWaits := by
  intro s w hs hd hl hmode hfull hf hm ho
  have ht := treatment_full hl hd hf hm hfull
  have hsp := spills_true hmode ho
  refine ⟨fun hb => ?_, fun why hw => ?_⟩
  · rw [exec_hostWrite_sharing w hs hb]
    obtain ⟨hroom, hnone⟩ := decideWrite_of_spill (s := s.withHost ⟨.none, false, s.host.data⟩) hl hd
      ((treatment_presented hb).trans ht) ((spills_withHost s _).trans hsp)
    refine ⟨fun h => ?_, fun h => ?_⟩
    · rw [hroom h, writeGeneration_withHost]
      rfl
    · rw [hnone h]
      rfl
  · rw [exec_heldWrite hw]
    obtain ⟨hroom, hnone⟩ := decideWrite_of_spill hl hd ht hsp
    refine ⟨fun h => ?_, fun h => ?_⟩
    · rw [hroom h]
      rfl
    · rw [hnone h]
      rfl

/-- Settles O11: a held write decided afresh, and when it falls due. -/
theorem heldWriteIsDecidedAfresh : Obligations.HeldWriteIsDecidedAfresh := by
  refine ⟨fun s w why => ⟨fun hw hd hl hf hm hq => ?_, fun hw hd hl hc => ?_,
    fun hw hd hl hsound older e younger hq hb hg => ⟨fun he => ?_, fun he => ?_⟩, fun hw hd hl hf hm hq hsp => ?_,
    fun hw hd hl hc => ?_, fun hw => ?_⟩, fun s left retired => ⟨fun w due hw => ?_, fun w due hw => ?_, fun w due hw => ?_,
    fun hno => ?_⟩⟩
  · exact exec_heldWrite_of_treatment hw (treatment_post hl hd hf hm hq) Treatment.noConfusion
  · exact exec_heldWrite_of_treatment hw (treatment_claim hl hd hc) Treatment.noConfusion
  · have hlen : e.bytes.length = 16 := (hsound.2.1 e (by rw [hq]; simp)).1
    refine ⟨mergedBytes w e, ?_, mergedBytes_length _ hlen, fun k hk => mergedBytes_get w hlen hk⟩
    rw [← mergeWrite_at hq hsound hb hg]
    exact exec_heldWrite_of_treatment hw (treatment_merge hl hd (findEntry_at hq hsound hb hg) he) Treatment.noConfusion
  · exact exec_heldWrite_of_treatment hw (treatment_writing hl hd (findEntry_at hq hsound hb hg) he) Treatment.noConfusion
  · rw [exec_heldWrite hw, decideWrite_of_full (treatment_full hl hd hf hm hq) (spills_false hsp)]
    rfl
  · exact exec_heldWrite_of_treatment hw (treatment_block hl hd hc) Treatment.noConfusion
  · refine congrArg Host.Outcome.next ?_
    unfold heldWriteDecided
    rw [hw]
  · exact noteWait_of_wait hw left retired
  · exact noteWait_of_wait hw left retired
  · exact noteWait_of_wait hw left retired
  · exact noteWait_of_no_wait hno left retired

end Sys2Proof.Machine
end

section
/-! The status words and reads by intervention (10.6, R42, R55 to R58, R164, R171): O13. -/

namespace Sys2Proof.Machine

/-! ### The status words as numbers (10.6) -/

section
variable (s : State)

theorem toNat_statusWord_0 : (statusWord s 0).toNat = (match s.ctl.istate with
    | .passive => 0 | .starting => 1 | .running => 2 | .draining .dormant _ => 3 + 0x100 | .draining .passive _ => 3 + 0x200
    | .dormant => 4) := by
  rw [statusWord_0]
  rcases s.ctl.istate with _ | _ | _ | ⟨target, _⟩ | _
  case draining => cases target <;> rfl
  all_goals rfl

theorem toNat_statusWord_1 : (statusWord s 1).toNat =
    (match s.ctl.mode.sharing with | .direct => 1 | .frame => 2 | .commit => 3) + (if s.ctl.mode.preempt then 0x10 else 0) +
      (match s.ctl.mode.role with | .none => 0 | .leader => 0x100 | .follower => 0x200) := by
  rw [statusWord_1]
  obtain ⟨sharing, preempt, role⟩ := s.ctl.mode
  cases sharing <;> cases preempt <;> cases role <;> rfl

theorem toNat_statusWord_3 :
    (statusWord s 3).toNat = (if s.scan.state = .showing then s.scan.line.toNat else 0xFFFF) := by
  rw [statusWord_3]
  split
  · exact BitVec.toNat_setWidth_of_le (by decide)
  · rfl

theorem countGen_eq_countP (q : List Entry) (g : Generation) : countGen q g = q.countP fun e => e.gen = g :=
  List.countP_eq_length_filter.symm

theorem toNat_statusWord_10 : (statusWord s 10).toNat = s.ctl.events.toNat := by
  rw [statusWord_10]
  exact BitVec.toNat_setWidth_of_le (by decide)

theorem toNat_statusWord_13 : (statusWord s 13).toNat = (match s.ctl.lastResult with
    | .none => 0 | .done => 1 | .started => 2 | .busy => 3 | .badState => 4 | .badMode => 5 | .badArg => 6 | .badSetup => 7
    | .conflict => 8 | .badSwitch => 9 | .malformed => 10 | .unknown => 11) := by
  rw [statusWord_13]
  cases s.ctl.lastResult <;> rfl

theorem toNat_statusWord_15 : (statusWord s 15).toNat = s.ctl.ptr.val := by
  have hptr := s.ctl.ptr.isLt
  rw [statusWord_15, BitVec.toNat_ofNat]
  omega

theorem toNat_statusWord_16 : (statusWord s 16).toNat = (match s.ctl.setupFault with | none => 0xFFFF | some i => i.val) := by
  rw [statusWord_16]
  rcases s.ctl.setupFault with _ | i
  · rfl
  · have hi := i.isLt
    show (BitVec.ofNat 16 i.val).toNat = i.val
    rw [BitVec.toNat_ofNat]
    omega

theorem toNat_statusWord_17 : (statusWord s 17).toNat = (if s.mover.active then 1 else 0) +
    (if s.mover.kind = .copy then 0x10 else 0) + (if s.mover.dir = .down then 0x100 else 0) := by
  rw [statusWord_17, Mover.word]
  cases s.mover.active <;> cases s.mover.kind <;> cases s.mover.dir <;> rfl

/-- The number of a source in status words 20 and 21 (10.6). -/
def sourceNumber (c : ClockSource) : Nat :=
  match c with | .rcb => 0 | .rcf => 1 | .rcs => 2 | .ext => 4 | .rcfM => 5 | .extM => 6

/-- A condition or phase code leaves the number of the source in its low bits (10.6). -/
theorem toNat_code_or (c : ClockSource) {w : Word} (h : w = 0 ∨ w = 0x100 ∨ w = 0x200) :
    (c.code ||| w).toNat = sourceNumber c + w.toNat := by
  rcases h with rfl | rfl | rfl <;> cases c <;> rfl

theorem toNat_statusWord_20 : (statusWord s 20).toNat = sourceNumber s.clock.source +
    (match s.clock.cond with | .ready => 0 | .checking _ => 0x100 | .stopped => 0x200) := by
  rw [statusWord_20]
  cases s.clock.cond with
  | ready => exact toNat_code_or _ (.inl rfl)
  | checking _ => exact toNat_code_or _ (.inr (.inl rfl))
  | stopped => exact toNat_code_or _ (.inr (.inr rfl))

theorem toNat_statusWord_21 : (statusWord s 21).toNat = (match s.clock.switch with
    | none => 0xFFFF | some p => sourceNumber p.target + (if p.phase = .ready then 0x100 else 0)) := by
  rw [statusWord_21]
  rcases s.clock.switch with _ | ⟨target, factor, phase⟩
  · rfl
  · cases phase with
    | waitReady => exact toNat_code_or target (.inl rfl)
    | ready => exact toNat_code_or target (.inr (.inl rfl))

theorem toNat_statusWord_22 : (statusWord s 22).toNat = s.clock.mult.factor.toNat := by
  rw [statusWord_22]
  exact BitVec.toNat_setWidth_of_le (by decide)

theorem toNat_statusWord_23 :
    (statusWord s 23).toNat = (match s.clock.mult.state with | .off => 0 | .locking => 1 | .locked => 2) := by
  rw [statusWord_23]
  cases s.clock.mult.state <;> rfl

theorem toNat_statusWord_24 : (statusWord s 24).toNat = s.scan.base.toNat % 0x10000 := by
  rw [statusWord_24, BitVec.extractLsb'_toNat, Nat.shiftRight_zero]

theorem toNat_statusWord_25 : (statusWord s 25).toNat = s.scan.base.toNat / 0x10000 := by
  have hb := s.scan.base.isLt
  rw [statusWord_25, BitVec.toNat_setWidth_of_le (by decide), BitVec.extractLsb'_toNat, Nat.shiftRight_eq_div_pow]
  omega

theorem toNat_statusWord_26 : (statusWord s 26).toNat = s.pins.cps.toNat + 0x10 * s.pins.cks.toNat := by
  have hword : ∀ (p : BitVec 3) (k : BitVec 2), (p.setWidth 16 ||| ((k.setWidth 16) <<< 4)).toNat = p.toNat + 0x10 * k.toNat := by
    decide
  rw [statusWord_26]
  exact hword _ _

theorem statusWord_unused {k : Fin 32} (h : 27 ≤ k.val) : statusWord s k = 0 := by
  obtain ⟨k, hk⟩ := k
  have hcases : k = 27 ∨ k = 28 ∨ k = 29 ∨ k = 30 ∨ k = 31 := by
    have h27 : 27 ≤ k := h
    omega
  rcases hcases with rfl | rfl | rfl | rfl | rfl <;> rfl

end

/-! ### The obligation -/

/-- A read of a word that is answered by intervention (R55, R56). -/
theorem exec_hostRead_intervened {s : State} {a : WordAddr} {c : ControlWord} (lanes : Lanes) (cycle : BitVec 10)
    (hb : s.host.access.busy = false) (hc : controlWord s.pins.cps a = some c) (hi : intervened c = true) :
    exec (.hostRead a lanes cycle) s = .next (s.withHost ⟨.interventionHold c, false, interventionAnswer s c⟩) := by
  refine (oneAtATime_of_not_busy _ hb).trans (congrArg Host.Outcome.next ?_)
  unfold readTaken
  rw [hc]
  exact if_pos hi

/-- Settles O13: interventions, and the layout of the status words. -/
theorem interventionAnswersReads : Obligations.InterventionAnswersReads := by
  refine ⟨fun s a lanes cycle hb => ⟨fun hc => exec_hostRead_intervened lanes cycle hb hc rfl,
    fun k hc => exec_hostRead_intervened lanes cycle hb hc rfl⟩, fun s => ?_⟩
  have hcount : ∀ g, BitVec.ofNat 16 (countGen s.queue g) = BitVec.ofNat 16 (s.queue.countP fun e => e.gen = g) :=
    fun g => congrArg _ (countGen_eq_countP s.queue g)
  refine ⟨toNat_statusWord_0 s, toNat_statusWord_1 s, statusWord_2 s, toNat_statusWord_3 s, statusWord_4 s, statusWord_5 s,
    (statusWord_6 s).trans (hcount _), (statusWord_7 s).trans (hcount _), (statusWord_8 s).trans (hcount _),
    (statusWord_9 s).trans (hcount _), toNat_statusWord_10 s, statusWord_11 s, statusWord_12 s, toNat_statusWord_13 s,
    statusWord_14 s, toNat_statusWord_15 s, toNat_statusWord_16 s, toNat_statusWord_17 s, statusWord_18 s, statusWord_19 s,
    ⟨toNat_statusWord_20 s, toNat_statusWord_21 s⟩, toNat_statusWord_22 s, toNat_statusWord_23 s, toNat_statusWord_24 s,
    toNat_statusWord_25 s, toNat_statusWord_26 s, fun k hk => statusWord_unused s hk⟩

end Sys2Proof.Machine
end

section
/-! The Read Resolver (R45 to R52, R70, R108): O14, O15 and O16. -/

namespace Sys2Proof.Machine

/-! ### The unfinished ranges, in words (R108) -/

theorem has_unfinished_iff (m : Mover) (first : WordAddr) (x : Nat) :
    (unfinished m first).has x = true ↔
      if m.dir = .up then first.toNat + m.done.toNat ≤ x ∧ x + 1 ≤ first.toNat + m.length.toNat
      else first.toNat ≤ x ∧ x + 1 ≤ first.toNat + m.length.toNat - m.done.toNat := by
  rw [WordRange.has_iff]
  unfold unfinished
  cases m.dir <;> exact Iff.rfl

theorem has_empty (x : Nat) : WordRange.empty.has x = false := by
  rw [← Bool.not_eq_true, WordRange.has_iff]
  exact fun h => Nat.not_lt_zero _ h.2

theorem has_destRange_iff (m : Mover) (x : Nat) :
    (destRange m).has x = true ↔ m.active = true ∧ (unfinished m m.dst).has x = true := by
  unfold destRange
  split
  · rename_i h
    exact (and_iff_right h).symm
  · rename_i h
    exact iff_of_false (Bool.eq_false_iff.1 (has_empty x)) fun hc => h hc.1

theorem has_srcRange_iff (m : Mover) (x : Nat) :
    (srcRange m).has x = true ↔ m.active = true ∧ m.kind = .copy ∧ (unfinished m m.src).has x = true := by
  have hcond : (m.active && m.kind == .copy) = true ↔ m.active = true ∧ m.kind = .copy := by
    rw [Bool.and_eq_true, beq_iff_eq]
  unfold srcRange
  split
  · rename_i h
    rw [← and_assoc, ← hcond, h]
    exact (and_iff_right rfl).symm
  · rename_i h
    exact iff_of_false (Bool.eq_false_iff.1 (has_empty x)) fun hc => h (hcond.2 ⟨hc.1, hc.2.1⟩)

/-! ### The source of a lane (R45 to R48) -/

/-- The youngest entry of the block that marks a byte gives it (R46). -/
theorem queueByte_split {older younger : List Entry} {e : Entry} {b : BlockNo} {k : Nat} {v : Byte} (he : e.block = b)
    (hv : e.byteAt k = some v) (hy : ∀ y ∈ younger, y.block = b → y.byteAt k = none) :
    queueByte (older ++ e :: younger) b k = some v := by
  have hyounger : (younger.reverse.findSome? fun e => if e.block = b then e.byteAt k else none) = none := by
    rw [List.findSome?_eq_none_iff]
    intro y hmem
    split
    · rename_i hb
      exact hy y (List.mem_reverse.1 hmem) hb
    · rfl
  rw [queueByte, List.reverse_append, List.reverse_cons, List.append_assoc, List.findSome?_append, hyounger, Option.none_or,
    List.singleton_append, List.findSome?_cons, if_pos he, hv]

theorem queueByte_none {q : List Entry} {b : BlockNo} {k : Nat} (h : ∀ e ∈ q, e.block = b → e.byteAt k = none) :
    queueByte q b k = none := by
  rw [queueByte, List.findSome?_eq_none_iff]
  intro e hmem
  split
  · rename_i hb
    exact h e (List.mem_reverse.1 hmem) hb
  · rfl

theorem inDest_iff (m : Mover) (kind : MoverKind) (a : WordAddr) :
    inDest m kind a = true ↔ m.kind = kind ∧ (destRange m).has a.toNat = true := by
  rw [inDest, Bool.and_eq_true, beq_iff_eq]

section
variable {s : State} {a : WordAddr} {odd : Bool}

theorem laneSource_of_queue {b : Byte}
    (h : queueByte s.queue (blockOf a) (2 * (a.toNat % 8) + if odd then 1 else 0) = some b) : laneSource s a odd = .queue b := by
  have hq : queueByte s.queue (blockOf a) (2 * wordInBlock a + if odd then 1 else 0) = some b := h
  unfold laneSource
  rw [hq]

theorem laneSource_of_no_entry (h : queueByte s.queue (blockOf a) (2 * (a.toNat % 8) + if odd then 1 else 0) = none) :
    laneSource s a odd =
      if inDest s.mover .fill a then .fillPattern (if odd then hiByte s.mover.pattern else loByte s.mover.pattern)
      else if inDest s.mover .copy a then .copySource else .memory := by
  have hq : queueByte s.queue (blockOf a) (2 * wordInBlock a + if odd then 1 else 0) = none := h
  unfold laneSource
  rw [hq]

theorem resolvedByte_of_supplied {b : Byte} (h : (laneSource s a odd).supplied = some b) : resolvedByte s a odd = b := by
  unfold resolvedByte
  rcases hl : laneSource s a odd with b' | b' | _ | _ <;> rw [hl] at h
  · exact Option.some.inj h
  · exact Option.some.inj h
  · cases h
  · cases h

end

/-! ### Reads in RUNNING and DRAINING (R50 to R52, R63, R70) -/

/-- A read that is no intervention, while the part shares the memory (R45). -/
theorem exec_hostRead_sharing {s : State} {a : WordAddr} (lanes : Lanes) (cycle : BitVec 10) (hs : sharing s = true)
    (hb : s.host.access.busy = false) (hc : (controlWord s.pins.cps a).any intervened = false) :
    exec (.hostRead a lanes cycle) s = .next (resolveRead a lanes cycle s) := by
  refine (oneAtATime_of_not_busy _ hb).trans (congrArg Host.Outcome.next ?_)
  rw [readTaken_of_not_intervened lanes cycle hc, readWordTaken, if_pos hs]

theorem resolveRead_supplied {s : State} {a : WordAddr} {lanes : Lanes} (cycle : BitVec 10) (h : needsTenure s a lanes = false) :
    resolveRead a lanes cycle s = s.withHost ⟨.readHold a, false, suppliedAnswer s a⟩ :=
  if_neg (Bool.eq_false_iff.1 h)

theorem resolveRead_claim {s : State} {a : WordAddr} {lanes : Lanes} (cycle : BitVec 10) (h : needsTenure s a lanes = true) :
    resolveRead a lanes cycle s = settle (preemptFetch cycle (s.withHost ⟨.readClaim a lanes, false, s.host.data⟩)) :=
  if_pos h

theorem preemptMode_iff (s : State) : preemptMode s = true ↔ s.ctl.mode.sharing = .direct ∧ s.ctl.mode.preempt = true := by
  rw [preemptMode, Bool.and_eq_true, beq_iff_eq]

/-- What preempts nothing: no fetch that a read may preempt is in progress (R70). -/
theorem preemptFetch_none (cycle : BitVec 10) {s : State}
    (h : preemptMode s = false ∨ s.port.tenure.any Tenure.isLineFetch = false ∨ ∃ line c, s.port.tenure = some (.lineFetch line (some c))) :
    preemptFetch cycle s = s := by
  unfold preemptFetch
  split
  · rename_i line ht
    rcases h with h | h | ⟨line', c, h⟩
    · exact if_neg (Bool.eq_false_iff.1 h)
    · rw [ht] at h
      cases h
    · rw [ht] at h
      cases h
  all_goals rfl

theorem preemptFetch_line {s : State} (cycle : BitVec 10) {line : BitVec 8} (hm : preemptMode s = true)
    (ht : s.port.tenure = some (.lineFetch line none)) :
    preemptFetch cycle s = s.withPort { s.port with tenure := some (.lineFetch line (some (clampCycle s cycle))) } := by
  unfold preemptFetch
  rw [ht]
  exact if_pos hm

/-- The fetch that a read preempts keeps the port until its cycle ends (R70). -/
theorem settle_preempt {s : State} {h : HostBus} (cycle : BitVec 10) {line : BitVec 8} (hm : preemptMode s = true)
    (ht : s.port.tenure = some (.lineFetch line none)) :
    settle (preemptFetch cycle (s.withHost h)) =
      (s.withHost h).withPort { s.port with tenure := some (.lineFetch line (some (clampCycle s cycle))) } := by
  rw [preemptFetch_line (s := s.withHost h) cycle hm ht]
  exact settle_of_tenure rfl

/-! ### The obligations -/

/-- Settles O14: the unfinished ranges, and the source of each lane. -/
theorem byteSourcesInOrder : Obligations.ByteSourcesInOrder := by
  refine ⟨fun m x => ⟨?_, ?_⟩, fun s a odd => ⟨fun older e younger b hq he hv hy => ?_, fun hnone => ?_⟩⟩
  · rw [has_destRange_iff, has_unfinished_iff]
  · rw [has_srcRange_iff, has_unfinished_iff]
  · exact laneSource_of_queue (by rw [hq]; exact queueByte_split he hv hy)
  · have hlane := laneSource_of_no_entry (s := s) (a := a) (odd := odd) (queueByte_none hnone)
    refine ⟨fun ha hk hd => ?_, fun ha hk hd => ⟨?_, ?_⟩, fun hd => ⟨?_, ?_⟩⟩
    · rw [hlane, if_pos ((inDest_iff _ _ _).2 ⟨hk, hd⟩)]
      cases odd <;> rfl
    · rw [hlane, if_neg fun h => MoverKind.noConfusion (hk.symm.trans ((inDest_iff _ _ _).1 h).1),
        if_pos ((inDest_iff _ _ _).2 ⟨hk, hd⟩)]
    · exact if_pos ((inDest_iff _ _ _).2 ⟨hk, hd⟩)
    · have hno : ∀ kind, ¬inDest s.mover kind a = true := fun kind h =>
        Bool.eq_false_iff.1 hd ((inDest_iff _ _ _).1 h).2
      rw [hlane, if_neg (hno _), if_neg (hno _)]
    · exact if_neg fun h => Bool.eq_false_iff.1 hd ((inDest_iff _ _ _).1 h).2

/-- Settles O15: a read whose enabled bytes are all supplied. -/
theorem readWithoutTenureIsAnsweredAtOnce : Obligations.ReadWithoutTenureIsAnsweredAtOnce := by
  intro s a lanes cycle hs hb hc hn
  have hlane : ∀ odd, (laneSource s a odd).supplied.isNone = false →
      (laneSource s a odd).supplied.getD 0 = resolvedByte s a odd := fun odd h => by
    obtain ⟨b, hb⟩ := Option.isSome_iff_exists.1 (Option.isNone_eq_false_iff.1 h)
    rw [resolvedByte_of_supplied hb, hb]
    rfl
  obtain ⟨hn0, hn1⟩ := Bool.or_eq_false_iff.1 hn
  refine ⟨(laneSource s a false).supplied.getD 0, (laneSource s a true).supplied.getD 0, ?_, fun h0 => hlane _ ?_,
    fun h1 => hlane _ ?_, fun b h => ?_, fun b h => ?_, fun h => ?_, fun h => ?_⟩
  · rw [exec_hostRead_sharing lanes cycle hs hb hc, resolveRead_supplied cycle hn]
    rfl
  · rwa [h0, Bool.true_and] at hn0
  · rwa [h1, Bool.true_and] at hn1
  all_goals
    rw [h]
    rfl

/-- Settles O16: a read that needs the memory claims the port, and may preempt a fetch. -/
theorem readThatNeedsMemoryClaimsThePort : Obligations.ReadThatNeedsMemoryClaimsThePort := by
  intro s a lanes cycle hs hb hc hn
  rw [exec_hostRead_sharing lanes cycle hs hb hc, resolveRead_claim cycle hn]
  refine ⟨fun hno => ?_, fun line hd hp ht hlt => ?_, fun line hd hp ht hle => ?_⟩
  · rw [preemptFetch_none]
    rcases hno with h | h | h | h
    · exact .inl (Bool.eq_false_iff.2 fun hm => h ((preemptMode_iff s).1 hm).1)
    · exact .inl (Bool.eq_false_iff.2 fun hm => Bool.eq_false_iff.1 h ((preemptMode_iff s).1 hm).2)
    · exact .inr (.inl h)
    · exact .inr (.inr h)
  · rw [settle_preempt cycle ((preemptMode_iff s).2 ⟨hd, hp⟩) ht, clampCycle,
      if_neg fun h => Nat.not_le.2 hlt ((lastFetchCycle_iff s line none cycle).1 h)]
  · rw [settle_preempt cycle ((preemptMode_iff s).2 ⟨hd, hp⟩) ht, clampCycle, if_pos ((lastFetchCycle_iff s line none cycle).2 hle)]
    rfl

end Sys2Proof.Machine
end

section
/-! The pin reset and HWAIT (R1, R2, R7, R8, R50, R52, R54, R56, R72, R149): O53 and O56. -/

namespace Sys2Proof.Machine

/-! ### HWAIT through an access (R1, R2, R50, R52) -/

theorem hwait_iff (s : State) : hwait s = true ↔ s.host.access ≠ .none ∧ s.host.access ≠ .handedOver := by
  unfold hwait
  cases s.host.access <;> simp [HostAccess.waits]

theorem hwait_preemptFetch (cycle : BitVec 10) (s : State) : hwait (preemptFetch cycle s) = hwait s := by
  unfold preemptFetch
  split
  · split <;> rfl
  all_goals rfl

/-- A decision on a write whose minimum hold runs holds the write in every treatment (R2). -/
theorem hwait_carryOut (w : HostWrite) (t : Treatment) {s : State} (h : s.host.holdElapsed = false) :
    hwait (carryOut w t s) = true := by
  have htaken : ∀ u : State, u.host = s.host → hwait (takeWrite w u) = true := fun u hu => by
    rw [takeWrite, hwait_controlTaken, hu, h, if_neg Bool.false_ne_true]
    rfl
  cases t with
  | take => exact htaken s rfl
  | merge g => exact htaken (s.withQueue (mergeWrite s.queue w g)) rfl
  | post g => exact htaken (s.withQueue (postWrite s.queue w g)) rfl
  | direct | await _ | full => rfl

theorem hwait_decideWrite (w : HostWrite) {s : State} (h : s.host.holdElapsed = false) : hwait (decideWrite w s) = true := by
  unfold decideWrite
  split
  · exact hwait_carryOut w _ (s := spill s) ((congrArg HostBus.holdElapsed (spill_host s)).trans h)
  · exact hwait_carryOut w _ h

theorem hwait_afterHostTenure (wake : Bool) (s : State) : hwait (afterHostTenure wake s) = hwait s := by
  unfold afterHostTenure
  split
  · exact hwait_congr (openPath_host wake s)
  · exact hwait_settle s

/-- HWAIT at the take of a read (R1, R7, R55, R56). -/
theorem hwait_readTaken (a : WordAddr) (lanes : Lanes) (cycle : BitVec 10) (s : State) :
    hwait (readTaken a lanes cycle s) = (sharing s || (controlWord s.pins.cps a).any intervened) := by
  rcases hi : (controlWord s.pins.cps a).any intervened with _ | _
  · rw [readTaken_of_not_intervened lanes cycle hi, readWordTaken, Bool.or_false]
    split
    · rename_i hs
      rw [hs]
      unfold resolveRead
      split
      · rw [hwait_settle, hwait_preemptFetch]
        rfl
      · rfl
    · rename_i hs
      rw [Bool.eq_false_iff.2 hs]
      rfl
  · rw [Bool.or_true]
    rcases hc : controlWord s.pins.cps a with _ | c
    · rw [hc] at hi
      cases hi
    · rw [hc] at hi
      unfold readTaken
      rw [hc]
      dsimp only
      rw [if_pos (show intervened c = true from hi)]
      rfl

/-- HWAIT at the presentation of a write (R2, R7). -/
theorem hwait_writePresented (w : HostWrite) (s : State) : hwait (writePresented w s) = sharing s := by
  unfold writePresented
  split
  · rename_i hs
    rw [hwait_settle, hwait_decideWrite w rfl, hs]
  · rename_i hs
    rw [passWrite, hwait_controlTaken, Bool.eq_false_iff.2 hs]
    rfl

/-! ### The minimum hold (R2, R52, R56) -/

theorem exec_minimumHoldElapsed (s : State) : exec .minimumHoldElapsed s = .next (s.withHost s.host.holdOver) := rfl

theorem holdOver_released {h : HostBus} {a : WordAddr} {w : HostWrite} {c : ControlWord}
    (ha : h.access = .readHold a ∨ h.access = .writeHold w ∨ h.access = .interventionHold c) :
    h.holdOver = { h with access := .none } := by
  unfold HostBus.holdOver
  rcases ha with ha | ha | ha <;> rw [ha]

theorem holdOver_marked {h : HostBus} {a : WordAddr} {l : Lanes} {w : HostWrite} {why : WaitFor} {due : Bool}
    (ha : h.access = .readClaim a l ∨ h.access = .writeClaim w ∨ h.access = .writeWait w why due ∨ h.access = .inTenure) :
    h.holdOver = { h with holdElapsed := true } := by
  unfold HostBus.holdOver
  rcases ha with ha | ha | ha | ha <;> rw [ha]

theorem holdOver_unchanged {h : HostBus} (ha : h.access = .none ∨ h.access = .handedOver) : h.holdOver = h := by
  unfold HostBus.holdOver
  rcases ha with ha | ha <;> rw [ha]

/-! ### The obligations -/

/-- Settles O53: a pin reset, block by block. -/
theorem resetAssertedClearsThePart : Obligations.ResetAssertedClearsThePart := by
  intro s cycle done hr
  refine ⟨_, congrArg Host.Outcome.next (if_neg (Bool.eq_false_iff.1 hr)), rfl, rfl, rfl, rfl, rfl, ?_, rfl, rfl, ?_, rfl, rfl,
    fun ht ha => ?_⟩
  · exact congrArg (fun b => { State.reset.scan with
      base := b, walk := b, stagedLo := s.ctl.setup.get 6, stagedHi := s.ctl.setup.get 7 }) (formBase_eq _ _)
  · exact strapClock_eq s.pins.cksPins
  · show memAfterReset cycle done s = s.mem
    unfold memAfterReset heldWrite cutTenureMem
    rw [ha, ht]

/-- Settles O56: HWAIT from the take of an access to the end of its tenure, and the minimum hold. -/
theorem minimumHoldReleasesTheHost : Obligations.MinimumHoldReleasesTheHost := by
  refine ⟨fun s => ⟨hwait_iff s, fun a lanes cycle hb => ⟨_, oneAtATime_of_not_busy _ hb, hwait_readTaken a lanes cycle s⟩,
    fun a data lanes hb => ⟨_, oneAtATime_of_not_busy _ hb, hwait_writePresented ⟨a, data, lanes⟩ s⟩,
    fun a c l0 l1 wake ht => ⟨_, rfl, ?_⟩, fun w wake ht => ⟨_, rfl, ?_⟩⟩,
    fun s => ⟨fun a w c ha => ?_, fun a l w why due ha => ?_, fun ha => ?_⟩⟩
  · unfold hostReadTenureEnd
    rw [ht]
    exact hwait_afterHostTenure wake _
  · unfold hostWriteTenureEnd
    rw [ht]
    exact (hwait_afterHostTenure wake _).trans (hwait_controlTaken w _)
  · rw [exec_minimumHoldElapsed, holdOver_released ha]
  · rw [exec_minimumHoldElapsed, holdOver_marked ha]
  · rw [exec_minimumHoldElapsed, holdOver_unchanged ha]
    rfl

end Sys2Proof.Machine
end

section
/-! STATUS_WORD_WRITE (R58, R171): O51. -/

namespace Sys2Proof.Machine

/-! ### The address of a status word (R55) -/

theorem statusWordAddr_eq (cps : BitVec 3) (k : Fin 32) :
    statusWordAddr cps k = BitVec.ofNat 20 (0xFC080 + cps.toNat * 0x800 + k.val) := by
  unfold statusWordAddr
  rw [controlBase_eq, pageBase, Nat.mul_div_cancel_left _ (by decide)]
  congr 1
  omega

theorem controlWord_statusWordAddr (cps : BitVec 3) (k : Fin 32) :
    controlWord cps (BitVec.ofNat 20 (0xFC080 + cps.toNat * 0x800 + k.val)) = some (.status k) := by
  have hcps := cps.isLt
  have hk := k.isLt
  rw [controlWord_status_iff, pageBase, BitVec.toNat_ofNat]
  omega

/-! ### The status words that a host write leaves (R58) -/

/-- The part of the state that status words 0 to 4 and 11 to 31 show, in a state that is otherwise as reset leaves it. -/
def shown (s : State) : State :=
  { State.reset with
    scan := { State.reset.scan with
      frames := s.scan.frames, state := s.scan.state, line := s.scan.line, ext := s.scan.ext, base := s.scan.base }
    mover := s.mover, clock := s.clock, ctl := { s.ctl with events := 0 }, pins := s.pins }

theorem statusWord_shown (s : State) {j : Fin 32} (h : j.val < 5 ∨ 10 < j.val) : statusWord (shown s) j = statusWord s j := by
  obtain ⟨j, hj⟩ := j
  replace h : j < 5 ∨ 10 < j := h
  match j, hj, h with
  | 0, _, _ | 1, _, _ | 2, _, _ | 3, _, _ | 4, _, _ | 11, _, _ | 12, _, _ | 13, _, _ | 14, _, _ | 15, _, _ | 16, _, _ | 17, _, _
  | 18, _, _ | 19, _, _ | 20, _, _ | 21, _, _ | 22, _, _ | 23, _, _ | 24, _, _ | 25, _, _ | 26, _, _ | 27, _, _ | 28, _, _
  | 29, _, _ | 30, _, _ | 31, _, _ => rfl
  | 5, _, h | 6, _, h | 7, _, h | 8, _, h | 9, _, h | 10, _, h => exact absurd h (by decide)
  | n + 32, hj, _ => exact absurd hj (by omega)

theorem shown_settle (s : State) : shown (settle s) = shown s := by
  rcases settle_cases s with h | ⟨_, _, ⟨line, _, h⟩ | ⟨_, hc, h⟩ | ⟨_, _, h⟩ | ⟨_, _, h⟩⟩
  · rw [h]
  · rw [h]
    unfold shown grantFetch setBuffer
    dsimp only [State.withScan, State.withPort]
    split <;> rfl
  · obtain ⟨tenure, _, hg⟩ := grantHost_spec hc
    rw [h, hg]
    rfl
  · rw [h]
    rfl
  · rw [h]
    rfl

theorem countGen_append (q r : List Entry) (g : Generation) : countGen (q ++ r) g = countGen q g + countGen r g := by
  unfold countGen
  rw [List.filter_append, List.length_append]

theorem countGen_postWrite_direct (q : List Entry) (w : HostWrite) {g : Generation} (h : g ≠ .direct) :
    countGen (postWrite q w .direct) g = countGen q g := by
  have hnew : countGen [newEntry w .direct] g = 0 := by
    have hne : ((newEntry w .direct).gen == g) = false := beq_eq_false_iff_ne.2 (Ne.symm h)
    unfold countGen
    rw [List.filter_cons, hne]
    rfl
  rw [postWrite, countGen_append, hnew, Nat.add_zero]

/-- A commit of the OPEN generation touches no RETIRING entry (R31). -/
theorem countGen_commitQueue_retiring (q : List Entry) : countGen (commitQueue q) .retiring = countGen q .retiring := by
  have hrelabel : ∀ r, countGen (relabel .opn .pending r) .retiring = countGen r .retiring := fun r => by
    unfold countGen relabel
    rw [List.filter_map, List.length_map]
    congr 1
    refine List.filter_congr fun e _ => ?_
    dsimp only [Function.comp]
    split
    · rename_i h
      rw [h]
      rfl
    · rfl
  rw [commitQueue, hrelabel, foldOpen, countGen_map fun e => (foldInto_frame q e).2.1]
  unfold countGen
  rw [List.filter_filter]
  congr 1
  refine List.filter_congr fun e _ => ?_
  by_cases h : e.gen = .retiring
  · simp [folds, h]
  · simp [h]

/-- What a status word write may change besides memory: words 5 and 6, and in COMMIT mode, where it may spill, words 7, 8 and 10
(R58). -/
def KeepsStatus (s t : State) : Prop :=
  t.mem = s.mem ∧ shown t = shown s ∧ countGen t.queue .retiring = countGen s.queue .retiring ∧
    (s.ctl.mode.sharing ≠ .commit → t.ctl.events = s.ctl.events ∧ countGen t.queue .opn = countGen s.queue .opn ∧
      countGen t.queue .pending = countGen s.queue .pending)

theorem KeepsStatus.statusWord {s t : State} (h : KeepsStatus s t) {j : Fin 32}
    (hj : j.val < 5 ∨ j.val = 9 ∨ 10 < j.val ∨ (7 ≤ j.val ∧ s.ctl.mode.sharing ≠ .commit)) :
    Machine.statusWord t j = Machine.statusWord s j := by
  obtain ⟨_, hshown, hretiring, hrest⟩ := h
  by_cases hout : j.val < 5 ∨ 10 < j.val
  · rw [← statusWord_shown t hout, hshown, statusWord_shown s hout]
  · by_cases h9 : j.val = 9
    · obtain rfl : j = 9 := Fin.ext h9
      rw [statusWord_9, statusWord_9, hretiring]
    · have hmode : 7 ≤ j.val ∧ s.ctl.mode.sharing ≠ .commit := by
        rcases hj with h | h | h | h
        · exact absurd (.inl h) hout
        · exact absurd h h9
        · exact absurd (.inr h) hout
        · exact h
      obtain ⟨hevents, hopn, hpending⟩ := hrest hmode.2
      have hcases : j.val = 7 ∨ j.val = 8 ∨ j.val = 10 := by omega
      rcases hcases with h | h | h
      · obtain rfl : j = 7 := Fin.ext h
        rw [statusWord_7, statusWord_7, hopn]
      · obtain rfl : j = 8 := Fin.ext h
        rw [statusWord_8, statusWord_8, hpending]
      · obtain rfl : j = 10 := Fin.ext h
        rw [statusWord_10, statusWord_10, hevents]

theorem KeepsStatus.settle {s t : State} (h : KeepsStatus s t) : KeepsStatus s (settle t) := by
  obtain ⟨hmem, hshown, hretiring, hrest⟩ := h
  refine ⟨(settle_mem t).trans hmem, (shown_settle t).trans hshown, (countGen_settle t _).trans hretiring, fun hm => ?_⟩
  rw [settle_ctl, countGen_settle, countGen_settle]
  exact hrest hm

/-- Carrying out the treatment of a write to a status word: its take decodes nothing (R171). -/
theorem KeepsStatus.carryOut {s u : State} (h : KeepsStatus s u) {w : HostWrite} {t : Treatment}
    (hw : ∀ v : State, v.pins = u.pins → controlTaken w v = v) (ht : ∀ g, t = .post g → g = .direct) :
    KeepsStatus s (carryOut w t u) := by
  obtain ⟨hmem, hshown, hretiring, hrest⟩ := h
  have htake : ∀ v : State, v.pins = u.pins →
      takeWrite w v = v.withHost { v.host with access := if v.host.holdElapsed then .none else .writeHold w } :=
    fun v hv => hw _ hv
  cases t with
  | take =>
    rw [Machine.carryOut, htake u rfl]
    exact ⟨hmem, hshown, hretiring, hrest⟩
  | merge g =>
    rw [Machine.carryOut, htake (u.withQueue (mergeWrite u.queue w g)) rfl]
    refine ⟨hmem, hshown, (countGen_mergeWrite _ _ _ _).trans hretiring, fun hm => ?_⟩
    obtain ⟨hevents, hopn, hpending⟩ := hrest hm
    exact ⟨hevents, (countGen_mergeWrite _ _ _ _).trans hopn, (countGen_mergeWrite _ _ _ _).trans hpending⟩
  | post g =>
    obtain rfl := ht g rfl
    rw [Machine.carryOut, htake (u.withQueue (postWrite u.queue w .direct)) rfl]
    refine ⟨hmem, hshown, (countGen_postWrite_direct _ _ Generation.noConfusion).trans hretiring, fun hm => ?_⟩
    obtain ⟨hevents, hopn, hpending⟩ := hrest hm
    exact ⟨hevents, (countGen_postWrite_direct _ _ Generation.noConfusion).trans hopn,
      (countGen_postWrite_direct _ _ Generation.noConfusion).trans hpending⟩
  | direct | await _ | full => exact ⟨hmem, hshown, hretiring, hrest⟩

/-- A spill is made in COMMIT mode only (R27, R28). -/
theorem KeepsStatus.spill {s u : State} (h : KeepsStatus s u) (hs : s.ctl.mode.sharing = .commit) :
    KeepsStatus s (spill u) := by
  obtain ⟨hmem, hshown, hretiring, _⟩ := h
  exact ⟨hmem, hshown, (countGen_commitQueue_retiring _).trans hretiring, fun hm => absurd hs hm⟩

theorem post_generation {s : State} {w : HostWrite} {g : Generation} (h : treatment s w = .post g) :
    g = writeGeneration s w.addr := by
  rcases treatment_cases s w with h' | h' | ⟨h', _⟩ | ⟨h', _⟩ | h' | ⟨h', _⟩ | ⟨h', _⟩ <;> cases h'.symm.trans h
  rfl

/-- The decision on a write to a word of the control page that no write decodes (R171). -/
theorem KeepsStatus.decideWrite {s u : State} (h : KeepsStatus s u) {w : HostWrite} (hmode : u.ctl.mode = s.ctl.mode)
    (hw : ∀ v : State, v.pins = u.pins → controlTaken w v = v) (hg : writeGeneration u w.addr = .direct) :
    KeepsStatus s (decideWrite w u) := by
  unfold Machine.decideWrite
  split
  · rename_i hspill
    have hcommit : s.ctl.mode.sharing = .commit := by
      have hsp := hspill.2
      rw [spills, Bool.and_eq_true, beq_iff_eq, hmode] at hsp
      exact hsp.1
    exact KeepsStatus.carryOut (h.spill hcommit) hw fun g ht => (post_generation ht).trans hg
  · exact KeepsStatus.carryOut h hw fun g ht => (post_generation ht).trans hg

/-! ### The obligation -/

/-- Settles O51: a write to a status word is a host write at its address. -/
theorem statusWordWriteReachesMemoryOnly : Obligations.StatusWordWriteReachesMemoryOnly := by
  intro s k data lanes
  dsimp only
  have hcontrol : ∀ v : State, v.pins = s.pins →
      controlWord v.pins.cps (BitVec.ofNat 20 (0xFC080 + s.pins.cps.toNat * 0x800 + k.val)) = some (.status k) := fun v hv => by
    rw [hv]
    exact controlWord_statusWordAddr s.pins.cps k
  have hexec : exec (.statusWordWrite k data lanes) s =
      exec (.hostWrite (BitVec.ofNat 20 (0xFC080 + s.pins.cps.toNat * 0x800 + k.val)) data lanes) s := by
    rw [← statusWordAddr_eq]
    rfl
  have htaken : ∀ w : HostWrite, w.addr = BitVec.ofNat 20 (0xFC080 + s.pins.cps.toNat * 0x800 + k.val) →
      ∀ v : State, v.pins = s.pins → controlTaken w v = v := fun w hw v hv =>
    controlTaken_of_undecoded (by rw [hw]; exact hcontrol v hv) fun _ => rfl
  rw [hexec]
  refine ⟨rfl, hcontrol s rfl, fun w hw => htaken w hw s rfl, fun hs hb => ⟨_, ?_, rfl, fun j => rfl⟩,
    fun hs hb => ⟨_, exec_hostWrite_sharing ⟨_, data, lanes⟩ hs hb, ?_⟩⟩
  · refine (oneAtATime_of_not_busy _ hb).trans (congrArg Host.Outcome.next ?_)
    rw [writePresented, hs, if_neg Bool.false_ne_true]
    exact htaken _ rfl _ rfl
  · have hclass : classify s (BitVec.ofNat 20 (0xFC080 + s.pins.cps.toNat * 0x800 + k.val)) = .control := by
      have hcps := s.pins.cps.isLt
      have hk := k.isLt
      refine (classify_control_iff s _).2 ?_
      rw [BitVec.toNat_ofNat]
      omega
    have hkeeps := (KeepsStatus.decideWrite (s := s) (u := s.withHost ⟨.none, false, s.host.data⟩)
      (w := ⟨BitVec.ofNat 20 (0xFC080 + s.pins.cps.toNat * 0x800 + k.val), data, lanes⟩) ⟨rfl, rfl, rfl, fun _ => ⟨rfl, rfl, rfl⟩⟩
      rfl (htaken _ rfl) ((writeGeneration_direct_iff _ _).2 fun h => by
        rw [classify_withHost, hclass] at h
        exact AccessClass.noConfusion h.1)).settle
    exact ⟨hkeeps.1, fun j hj => hkeeps.statusWord hj⟩

end Sys2Proof.Machine
end

section
/-! The scan and the panel (Section 5): the line switch, the cut, the gap and the Panel Port's sequence: O26, O27, O28 and O31. -/

namespace Sys2Proof.Machine

/-! ### The panel (R95, R96) -/

/-- At clock 0 of a line period the panel is not lit and latches nothing (R95, R139 index 2). -/
theorem panelAt_zero {s : State} (h : 0 < s.lineWords) (b : LineBuffer) :
    panelAt s b 0 false = ⟨columnLanes b 0, false, false, s.panel.pls, false, s.panel.fso⟩ := by
  have hplt : decide (0 = s.lineWords) = false := decide_eq_false (by omega)
  have hpoe : decide (s.lineWords + 1 < 0) = false := decide_eq_false (by omega)
  unfold panelAt
  rw [if_pos h, if_neg (by omega), hplt, hpoe, Bool.and_false, Bool.and_false]

theorem drivePanel_zero {s : State} (h : 0 < s.lineWords) (b : LineBuffer) : drivePanel b 0 false s =
    (s.withPanel ⟨columnLanes b 0, false, false, s.panel.pls, false, s.panel.fso⟩).withFree s.free := by
  rw [drivePanel, panelAt_zero h, if_pos h]

/-- Settles O31: the fields of the panel at each clock. -/
theorem panelRunsTheLineSequence : Obligations.PanelRunsTheLineSequence := by
  intro s clock half hs ht hc
  have hstep : exec (.panelPortLineSequence clock half) s = .next
      (drivePanel (bufferOf s.scan s.scan.line) clock.toNat half (s.withScan { s.scan with timer := clock })) :=
    congrArg Host.Outcome.next (if_pos ⟨hs, ht, hc⟩)
  refine ⟨_, _, hstep, fun hlt => ⟨if_pos hlt, ?_⟩, fun hge => ?_, decide_eq_true_iff, fun hlt => if_pos hlt,
    fun hle => if_neg (Nat.not_lt.2 hle), ?_, rfl⟩
  · exact congrArg (· && half) ((congrArg _ (decide_eq_true hlt)).trans (Bool.and_true _))
  · have hd : decide (clock.toNat < s.lineWords) = false := decide_eq_false (Nat.not_lt.2 hge)
    show (_ && decide (clock.toNat < s.lineWords) && half) = false
    rw [hd, Bool.and_false, Bool.false_and]
  · exact (Bool.and_eq_true _ _).to_iff.trans (and_congr beq_iff_eq (decide_eq_true_iff.trans (by exact Iff.rfl)))

/-! ### The line switch (R94) -/

theorem raiseIf_mark_blanked (m a : Bool) (s : State) :
    raiseIf a .blanked (raiseIf m .mark s) =
      s.withCtl { s.ctl with events := s.ctl.events ||| (if m then 2 else 0) ||| (if a then 8 else 0) } := by
  have hmark : raiseIf m .mark s = s.withCtl { s.ctl with events := s.ctl.events ||| (if m then 2 else 0) } := by
    cases m
    · exact congrArg (fun x => s.withCtl { s.ctl with events := x }) (BitVec.or_zero).symm
    · rfl
  rw [hmark]
  cases a
  · exact congrArg (fun x => s.withCtl { s.ctl with events := x }) (BitVec.or_zero).symm
  · rfl

/-- The line switch: the scan, the events and the panel change, and a free value may be used up (R94, R95). -/
theorem lineSwitch_eq (n : BitVec 8) {s : State} (h : 0 < s.lineWords) :
    lineSwitch n s = (((s.withScan (s.scan.switchTo s.lines n)).withCtl { s.ctl with
        events := s.ctl.events ||| (if (bufferOf s.scan n).mark then 2 else 0) |||
          (if (bufferOf s.scan n).aborted then 8 else 0) }).withPanel
      ⟨columnLanes (switchedBuffer s.scan n) 0, false, false, s.panel.pls, false, false⟩).withFree s.free := by
  obtain ⟨_, hmark, haborted, _⟩ := switchedBuffer_frame s.scan n
  have hraise := raiseIf_mark_blanked (switchedBuffer s.scan n).mark (switchedBuffer s.scan n).aborted
    ((s.withScan (s.scan.switchTo s.lines n)).withPanel { s.panel with fso := false })
  rw [hmark, haborted] at hraise
  unfold lineSwitch
  dsimp only
  rw [hmark, haborted, hraise, drivePanel_zero (by exact h)]
  rfl

theorem lineSwitch_scan (n : BitVec 8) {s : State} (h : 0 < s.lineWords) : (lineSwitch n s).scan = s.scan.switchTo s.lines n := by
  rw [lineSwitch_eq n h]
  rfl

theorem lineSwitch_ctl (n : BitVec 8) {s : State} (h : 0 < s.lineWords) : (lineSwitch n s).ctl = { s.ctl with
    events := s.ctl.events ||| (if (bufferOf s.scan n).mark then 2 else 0) |||
      (if (bufferOf s.scan n).aborted then 8 else 0) } := by
  rw [lineSwitch_eq n h]
  rfl

theorem lineSwitch_panel (n : BitVec 8) {s : State} (h : 0 < s.lineWords) :
    (lineSwitch n s).panel = ⟨columnLanes (switchedBuffer s.scan n) 0, false, false, s.panel.pls, false, false⟩ := by
  rw [lineSwitch_eq n h]
  rfl

/-- The line buffer of line 0 has nothing to repeat (R94). -/
theorem switchedBuffer_first (x : Scan) : switchedBuffer x 0 =
    if x.bufA.kind = .repeated then { x.bufA with kind := .dark, words := [], state := .showing }
    else { x.bufA with state := .showing } := by
  split
  · rename_i h
    exact switchedBuffer_repeat_dark h fun hc => hc.1 rfl
  · rename_i h
    exact switchedBuffer_plain h

/-- The first column of line 0 as it is switched onto the panel. -/
theorem columnLanes_first (x : Scan) : columnLanes (switchedBuffer x 0) 0 =
    if x.bufA.kind = .data then (x.bufA.words[0]?.getD 0).extractLsb' 0 6 else 0 := by
  rw [switchedBuffer_first]
  by_cases h : x.bufA.kind = .repeated
  · rw [if_pos h, if_neg (by rw [h]; exact LineKind.noConfusion)]
    rfl
  · rw [if_neg h]
    rfl

theorem switchTo_first (x : Scan) (lines : Nat) : x.switchTo lines 0 = { x with
    state := .showing, line := 0, fetchDue := if 1 < lines then some 1 else none
    bufA := if x.bufA.kind = .repeated then { x.bufA with kind := .dark, words := [], state := .showing }
      else { x.bufA with state := .showing }
    bufB := x.bufB.leftPanel } := by
  rw [← switchedBuffer_first]
  rfl

/-- The state at the end of a line's period, before the switch or the cut: the timer is at 0 and PLS drives the line's index (R76, R95). -/
def periodEnded (s : State) : State := (s.withScan { s.scan with timer := 0 }).withPanel { s.panel with pls := s.scan.line }

/-- The boundary at the end of the last line's period, with no line fetch outstanding (R77). -/
theorem exec_boundary_cut {s : State} (wake : Bool) (hs : s.scan.state = .showing) (hf : fetchOutstanding s = false)
    (hl : s.lines ≤ s.scan.line.toNat + 1) : exec (.linePeriodBoundary wake) s = .next (settle (cut (periodEnded s))) := by
  rw [exec_linePeriodBoundary wake (by rw [hs]; exact ScanState.noConfusion) hf, boundary_showing wake (by exact hs)]
  exact congrArg (fun u => Host.Outcome.next (settle u)) (if_pos hl)

/-- The boundary at the end of the period of a line before the last, with no line fetch outstanding (R77). -/
theorem exec_boundary_switch {s : State} (wake : Bool) (hs : s.scan.state = .showing) (hf : fetchOutstanding s = false)
    (hl : s.scan.line.toNat + 1 < s.lines) :
    exec (.linePeriodBoundary wake) s = .next (settle (lineSwitch (s.scan.line + 1) (periodEnded s))) := by
  rw [exec_linePeriodBoundary wake (by rw [hs]; exact ScanState.noConfusion) hf, boundary_showing wake (by exact hs)]
  exact congrArg (fun u => Host.Outcome.next (settle u)) (if_neg (Nat.not_le.2 hl))

/-- A boundary in GAP, with no line fetch outstanding (R76). -/
theorem exec_boundary_gap {s : State} (wake : Bool) (hs : s.scan.state = .gap) (hf : fetchOutstanding s = false) :
    exec (.linePeriodBoundary wake) s = .next (settle (gapBoundary wake (s.withScan { s.scan with timer := 0 }))) := by
  rw [exec_linePeriodBoundary wake (by rw [hs]; exact ScanState.noConfusion) hf, boundary_gap wake (by exact hs)]

/-- Settles O26: the switch, by the scan state. -/
theorem lineSwitchShowsTheNextLine : Obligations.LineSwitchShowsTheNextLine := by
  refine ⟨fun s wake hg hsub hf hw => ?_, fun s wake hs hf hl hw => ?_⟩
  · rw [exec_boundary_gap wake hg hf, gapBoundary_leadIn wake (by exact hsub)]
    refine ⟨_, rfl, (lineSwitch_scan 0 (by exact hw)).trans ?_, lineSwitch_ctl 0 (by exact hw),
      (lineSwitch_panel 0 (by exact hw)).trans ?_, lineSwitch_mem _ _, lineSwitch_queue _ _, lineSwitch_mover _ _,
      lineSwitch_clock _ _, lineSwitch_host _ _, lineSwitch_port _ _, lineSwitch_pins _ _, lineSwitch_pending _ _⟩
    · rw [switchTo_first]
      rfl
    · rw [columnLanes_first]
      rfl
  · have hscan := lineSwitch_scan (s.scan.line + 1) (s := periodEnded s) hw
    have hpanel := lineSwitch_panel (s.scan.line + 1) (s := periodEnded s) hw
    have hn : bufferOf (lineSwitch (s.scan.line + 1) (periodEnded s)).scan (s.scan.line + 1) =
        switchedBuffer s.scan (s.scan.line + 1) :=
      (congrArg (bufferOf · (s.scan.line + 1)) hscan).trans (bufferOf_switchTo _ _ _)
    obtain ⟨hbline, hbmark, _, hbstate⟩ := switchedBuffer_frame s.scan (s.scan.line + 1)
    rw [exec_boundary_switch wake hs hf hl]
    refine ⟨_, rfl, (congrArg Scan.state hscan :), (congrArg Scan.timer hscan :), (congrArg Scan.line hscan :), (congrArg Scan.fetchDue hscan :),
      ?_, ?_, ?_, fun hk => ?_, fun hk hst hd h0 => ?_, fun hk hd => ?_, fun hst => ?_, lineSwitch_ctl _ (by exact hw),
      (congrArg Panel.poe hpanel :), (congrArg Panel.plt hpanel :), (congrArg Panel.pck hpanel :), (congrArg Panel.pls hpanel :),
      (congrArg Panel.fso hpanel :), lineSwitch_mem _ _, lineSwitch_queue _ _, lineSwitch_mover _ _,
      lineSwitch_clock _ _, lineSwitch_host _ _, lineSwitch_port _ _, lineSwitch_pins _ _, (congrArg Scan.frames hscan :),
      (congrArg Scan.ext hscan :), (congrArg Scan.base hscan :), (congrArg Scan.walk hscan :)⟩
    · exact (congrArg LineBuffer.state hn).trans hbstate
    · exact (congrArg LineBuffer.line hn).trans hbline
    · exact (congrArg LineBuffer.mark hn).trans hbmark
    · rw [switchedBuffer_plain hk] at hn
      exact ⟨(congrArg LineBuffer.kind hn :), (congrArg LineBuffer.words hn :)⟩
    · rw [← otherBuffer_next] at hst hd
      rw [switchedBuffer_repeat hk h0 hst hd] at hn
      exact ⟨(congrArg LineBuffer.kind hn :), (congrArg LineBuffer.words hn :).trans
        (congrArg LineBuffer.words (otherBuffer_next s.scan s.scan.line) :)⟩
    · rw [← otherBuffer_next] at hd
      rw [switchedBuffer_repeat_dark hk fun hc => hd hc.2.2] at hn
      exact congrArg LineBuffer.kind hn
    · rw [← otherBuffer_next] at hst
      have hleft : bufferOf (lineSwitch (s.scan.line + 1) (periodEnded s)).scan s.scan.line =
          (otherBuffer s.scan (s.scan.line + 1)).emptied := by
        rw [← otherBuffer_next, hscan, otherBuffer_switchTo]
        exact if_pos hst
      exact congrArg LineBuffer.state hleft

/-! ### The cut (R78, R80, R81) -/

/-- Settles O27: the cut, in RUNNING and at the drain cut. -/
theorem cutEndsTheFrame : Obligations.CutEndsTheFrame := by
  refine ⟨fun s wake hs hf hl hi => ?_, fun s wake target hs hf hl hi => ?_⟩
  · have hd : s.ctl.istate.isDraining = false := by rw [hi]; rfl
    rw [exec_boundary_cut wake hs hf hl, cut, cutQueue_running (by exact hd), show (periodEnded s).ctl.istate.isDraining = false from hd]
    rfl
  · have hd : s.ctl.istate.isDraining = true := by rw [hi]; rfl
    rw [exec_boundary_cut wake hs hf hl, cut]
    rw [cutQueue_draining (target := target) (after := false) (by exact hi),
      show (periodEnded s).ctl.istate.isDraining = true from hd]
    refine ⟨_, rfl, (noteWait_scan _ _ _).trans rfl, (noteWait_queue _ _ _).trans rfl,
      (congrArg (fun c : Controller => { c with events := c.events ||| 1 }) (noteWait_ctl _ _ _)).trans rfl,
      (noteWait_mem _ _ _).trans rfl, (noteWait_mover _ _ _).trans rfl, (noteWait_clock _ _ _).trans rfl,
      (noteWait_port _ _ _).trans rfl, (noteWait_pins _ _ _).trans rfl, (congrArg Panel.poe (noteWait_panel _ _ _) :).trans rfl⟩

/-! ### The frame gap (R82 to R86) -/

/-- Settles O28: a boundary in a gap, by the sub-phase, the queue and the sync; and the arrivals. -/
theorem gapBoundariesCountAndCheck : Obligations.GapBoundariesCountAndCheck := by
  refine ⟨fun s wake hg hsub hf hl => ?_, fun s wake hg hf hcheck => ?_, fun s => ⟨fun hr hg hsub => ?_, fun hn => ?_⟩⟩
  · rw [exec_boundary_gap wake hg hf, gapBoundary_count wake (by exact hsub), countGap_below (by exact hl)]
    rfl
  · have hgap : gapBoundary wake (s.withScan { s.scan with timer := 0 }) =
        checkGap (s.withScan { s.scan with timer := 0, gapCount := if s.scan.sub = .count then 0 else s.scan.gapCount }) := by
      rcases hcheck with ⟨hsub, hd⟩ | ⟨hsub, hl⟩
      · rw [gapBoundary_extend wake (by exact hsub) (by exact hd), if_neg (by rw [hsub]; exact SubPhase.noConfusion)]
      · rw [gapBoundary_count wake (by exact hsub), countGap_last (by exact hl), if_pos hsub]
        rfl
    have hfollow : s.ctl.mode.role = .follower → s.scan.syncSeen = false → synced s = false := fun hr hy => by
      rw [synced, hr, hy]
      rfl
    rw [exec_boundary_gap wake hg hf, hgap]
    refine ⟨fun hret => ?_, fun hret hs => ?_, fun hret hr hy hl => ?_, fun hret hr hy hl => ?_⟩
    · rw [checkGap_retiring (by exact hret)]
      rfl
    · have hsync : synced s = true := by
        rw [synced, Bool.or_eq_true, Bool.not_eq_true', beq_eq_false_iff_ne]
        exact hs
      rw [checkGap_synced (by exact hret) (by exact hsync)]
      rfl
    · rw [checkGap_waiting (by exact hret) (by exact hfollow hr hy) (by exact hl)]
      rfl
    · rw [checkGap_lost (by exact hret) (by exact hfollow hr hy) (by exact Nat.le_of_eq hl.symm)]
      rfl
  · refine congrArg Host.Outcome.next (if_pos ⟨hr, hg, ?_⟩)
    rcases hsub with hsub | hsub <;> rw [hsub] <;> exact SubPhase.noConfusion
  · refine congrArg Host.Outcome.next (if_neg fun hc => ?_)
    obtain ⟨hr, hg, hsub⟩ := hc
    rcases hn with hn | hn | hn
    · exact hn hr
    · exact hn hg
    · exact hsub hn

end Sys2Proof.Machine
end

section
/-! The end of a drain and the first cut (R72, R73, R79, R87, R141, R144): O29 and O30. -/

namespace Sys2Proof.Machine

/-! ### The end of a drain (R73, R87) -/

/-- The state at the end of a drain: the scan is OFF, and a held write claims (R15, R73, R87). -/
def drainDone (s : State) : State :=
  (s.withScan { s.scan with timer := 0, state := .off }).withHost { s.host with access := s.host.access.claimAtDrainEnd }

theorem claimAtDrainEnd_of_no_wait {a : HostAccess} (h : ∀ w why due, a ≠ .writeWait w why due) : a.claimAtDrainEnd = a := by
  cases a with
  | writeWait w why due => exact absurd rfl (h w why due)
  | none | readHold _ | interventionHold _ | writeHold _ | readClaim _ _ | writeClaim _ | inTenure | handedOver => rfl

theorem drainDone_of_no_wait {s : State} (h : ∀ w why due, s.host.access ≠ .writeWait w why due) :
    drainDone s = s.withScan { s.scan with timer := 0, state := .off } := by
  unfold drainDone
  rw [claimAtDrainEnd_of_no_wait h]
  rfl

section
variable {s : State} (wake : Bool) {target : DrainTarget} (hi : s.ctl.istate = .draining target true)
  (hg : s.scan.state = .gap) (hsub : s.scan.sub = .extend) (hf : fetchOutstanding s = false)
include hi hg hsub hf

/-- A boundary of the drain gap (R87). -/
theorem exec_boundary_drain :
    exec (.linePeriodBoundary wake) s = .next (settle (drainCheck wake (s.withScan { s.scan with timer := 0 }))) := by
  rw [exec_boundary_gap wake hg hf, gapBoundary_drain wake (by exact hsub) (by
    show s.ctl.istate.afterDrainCut = true
    rw [hi]
    rfl)]

/-- The boundary that ends the drain while a host access claims or has the port (R73). -/
theorem exec_boundary_drainDone (hq : s.queue = []) (hm : s.mover.active = false)
    (hb : (drainDone s).host.access.claims = true ∨ s.port.tenure.isSome = true) :
    exec (.linePeriodBoundary wake) s = .next (settle (drainDone s)) := by
  rw [exec_boundary_drain wake hi hg hsub hf]
  have hdone : (s.queue.isEmpty && !s.mover.active) = true := by
    rw [hq, hm]
    rfl
  have hbusy : ((drainDone s).host.access.claims || s.port.tenure.isSome) = true := by
    rw [Bool.or_eq_true]
    exact hb
  exact congrArg (fun u => Host.Outcome.next (settle u)) ((if_pos hdone).trans (if_pos hbusy))

/-- The boundary that ends the drain with no host access: the path opens (R73, R144). -/
theorem exec_boundary_openPath (hq : s.queue = []) (hm : s.mover.active = false) (ht : s.port.tenure = none)
    (hb : s.host.access.busy = false) :
    exec (.linePeriodBoundary wake) s = .next (openPath wake (s.withScan { s.scan with timer := 0, state := .off })) := by
  have hdone : (s.queue.isEmpty && !s.mover.active) = true := by
    rw [hq, hm]
    rfl
  have hwait : ∀ w why due, s.host.access ≠ .writeWait w why due := fun w why due hw => by
    rw [hw] at hb
    cases hb
  have hclaims : s.host.access.claims = false := by
    cases ha : s.host.access with
    | none | readHold _ | interventionHold _ | writeHold _ => rfl
    | readClaim _ _ | writeClaim _ | writeWait _ _ _ | inTenure | handedOver =>
      rw [ha] at hb
      cases hb
  have hidle : ((drainDone s).host.access.claims || s.port.tenure.isSome) = false := by
    rw [drainDone_of_no_wait hwait, ht, Bool.or_eq_false_iff]
    exact ⟨hclaims, rfl⟩
  have hopen : drainCheck wake (s.withScan { s.scan with timer := 0 }) = openPath wake (drainDone s) :=
    (if_pos hdone).trans (if_neg (Bool.eq_false_iff.1 hidle))
  have hpass := openPath_passThrough wake (s := drainDone s) (by
    show s.ctl.istate.isDraining = true
    rw [hi]
    rfl)
  rw [exec_boundary_drain wake hi hg hsub hf, hopen, ← drainDone_of_no_wait hwait,
    settle_of_not_sharing (sharing_of_passThrough hpass)]

end

/-- A host claim is granted at the idle port (R63, R64). -/
theorem settle_drainDone {s : State} {target : DrainTarget} (hi : s.ctl.istate = .draining target true)
    (hr : s.pins.reset = false) (hf : fetchOutstanding s = false) (hq : s.queue = []) (ht : s.port.tenure = none)
    (hc : (drainDone s).host.access.claims = true) : settle (drainDone s) = grantHost (drainDone s) := by
  have hs : sharing s = true := by
    unfold sharing
    rw [hr, hi]
    rfl
  have hdue : s.scan.fetchDue = none := by
    rw [fetchOutstanding, Bool.or_eq_false_iff] at hf
    exact Option.not_isSome_iff_eq_none.1 (Bool.eq_false_iff.1 hf.1)
  rw [settle_other (by exact hs) (by exact ht) (by exact hdue), grantOther_host hc (.inr _)]
  show queueClaims s.mover s.queue = false
  rw [hq]
  rfl

theorem openPath_passive (wake : Bool) {s : State} {after : Bool} (h : s.ctl.istate = .draining .passive after) :
    openPath wake s = applyReadySwitch (raise .stateChange (setIState .passive (s.withPins { s.pins with wake := wake }))) := by
  unfold openPath
  dsimp only
  rw [State.withPins_ctl, h]

theorem openPath_dormant (wake : Bool) {s : State} {after : Bool} (h : s.ctl.istate = .draining .dormant after) :
    openPath wake s = enterDormant wake (raise .stateChange (s.withPins { s.pins with wake := wake })) := by
  unfold openPath
  dsimp only
  rw [State.withPins_ctl, h]

/-- Settles O29: the boundary of a drain gap, by what is left and by the host access. -/
theorem drainEndsWhenQueueAndMoverAreDone : Obligations.DrainEndsWhenQueueAndMoverAreDone := by
  intro s wake target hi hg hsub hf
  refine ⟨fun hleft => ?_, fun hq hm hr => ⟨fun ht hw => ?_, fun w why due ht hw => ?_, fun a lanes ht ha => ?_,
    fun w ht ha => ?_⟩, fun hq hm ht hb => ?_⟩
  · have hnot : (s.queue.isEmpty && !s.mover.active) = false := by
      rw [Bool.and_eq_false_iff, Bool.not_eq_false']
      exact hleft.imp_left List.isEmpty_eq_false_iff.2
    have hsame : s.scan = { s.scan with sub := .extend } := by rw [← hsub]
    rw [exec_boundary_drain wake hi hg hsub hf]
    refine congrArg (fun u => Host.Outcome.next (settle u)) ((if_neg (Bool.eq_false_iff.1 hnot)).trans ?_)
    rw [hsame]
    rfl
  · rw [exec_boundary_drainDone wake hi hg hsub hf hq hm (.inr ht), settle_of_tenure (by exact ht), drainDone_of_no_wait hw]
  · rw [exec_boundary_drainDone wake hi hg hsub hf hq hm (.inr ht), settle_of_tenure (by exact ht), drainDone, hw]
    rfl
  · have hd := drainDone_of_no_wait (s := s) fun w why due hw => by cases ha.symm.trans hw
    have hclaim : (drainDone s).host.access = .readClaim a lanes := by rw [hd, State.withScan_host, ha]
    rw [exec_boundary_drainDone wake hi hg hsub hf hq hm (.inl (claims_read hclaim)),
      settle_drainDone hi hr hf hq ht (claims_read hclaim), grantHost_read hclaim, chosenWord_of_idle (by exact hm),
      laneSource_of_idle (by exact hq) (by exact hm), laneSource_of_idle (by exact hq) (by exact hm), hd]
    rfl
  · have hclaim : (drainDone s).host.access = .writeClaim w := by
      rcases ha with ha | ⟨why, due, ha⟩ <;> exact congrArg HostAccess.claimAtDrainEnd ha
    rw [exec_boundary_drainDone wake hi hg hsub hf hq hm (.inl (claims_write hclaim)),
      settle_drainDone hi hr hf hq ht (claims_write hclaim), grantHost_write hclaim]
    rfl
  · rw [exec_boundary_openPath wake hi hg hsub hf hq hm ht hb]
    refine ⟨fun htar => ?_, fun htar hw => ?_, fun htar hw hfault => ?_, fun i htar hw hfault => ?_⟩ <;> subst htar
    · rw [openPath_passive wake (by exact hi)]
      rfl
    all_goals
      subst hw
      rw [openPath_dormant _ (by exact hi)]
    · rfl
    · exact ⟨_, congrArg Host.Outcome.next (wakeUp_of_no_fault ((wakeFault_congr rfl).trans hfault)), rfl, rfl, rfl, rfl⟩
    · exact ⟨_, congrArg Host.Outcome.next (wakeUp_of_fault ((wakeFault_congr rfl).trans hfault)), rfl, rfl,
        (eventSet_raiseBit _ _ _).trans rfl, rfl, rfl⟩

/-! ### The first cut (R72, R79, R141) -/

theorem applyReadySwitch_clock_congr {s v : State} (h : v.clock = s.clock) :
    (applyReadySwitch v).clock = (applyReadySwitch s).clock := by
  unfold applyReadySwitch
  rw [h]
  split
  · rfl
  · exact h
  · exact h

/-- A READY switch is applied beside the FRAME event (R78, R128). -/
theorem applyReadySwitch_ctl_frame {s v : State} (h : v.clock = s.clock)
    (hc : v.ctl = { s.ctl with events := s.ctl.events ||| 1 }) :
    (applyReadySwitch v).ctl = { (applyReadySwitch s).ctl with events := (applyReadySwitch s).ctl.events ||| 1 } := by
  unfold applyReadySwitch
  rw [h]
  split
  · have hevents : (s.ctl.events ||| 1) ||| 0x40 = (s.ctl.events ||| 0x40) ||| 1 := by
      rw [BitVec.or_assoc, BitVec.or_assoc]
      rfl
    refine (congrArg (fun c : Controller => { c with events := c.events ||| 0x40 }) hc).trans ?_
    exact congrArg (fun e => { s.ctl with events := e }) hevents
  · exact hc
  · exact hc

/-- The cut at the first cut is an ordinary one (R34, R79). -/
theorem firstCutState_eq {s : State} (hi : s.ctl.istate = .starting) : firstCutState s =
    (raise .stateChange (setIState .running (applyReadySwitch (raise .frame
      (((s.withScan (s.scan.atCut false)).withPanel s.panel.dark).withQueue (cutShift s.ctl.mode.sharing s.queue)))))).withPort
        ⟨none, .hostNext⟩ := by
  have hd : s.ctl.istate.isDraining = false := by rw [hi]; rfl
  rw [firstCutState, cut, cutQueue_running (by exact hd), hd]
  rfl

/-- Settles O30: the state of the first cut, and the hand-over by the access in progress. -/
theorem firstCutStartsTheScan : Obligations.FirstCutStartsTheScan := by
  intro s access hi hc hr
  have hexec : exec (.firstCut access) s = .next (handOver access (firstCutState s)) :=
    congrArg Host.Outcome.next (if_pos ⟨hi, hc, by rw [hr]; rfl⟩)
  rw [hexec]
  have hctl := applyReadySwitch_ctl_frame (s := s) (v := raise .frame
    (((s.withScan (s.scan.atCut false)).withPanel s.panel.dark).withQueue (cutShift s.ctl.mode.sharing s.queue))) rfl rfl
  have hpins : (firstCutState s).pins = s.pins := (congrArg State.pins (firstCutState_eq hi)).trans (applyReadySwitch_pins _)
  have hhost : (firstCutState s).host = s.host := (congrArg State.host (firstCutState_eq hi)).trans (applyReadySwitch_host _)
  refine ⟨firstCutState s, rfl, ?_, ?_, ?_, ?_, ?_, ?_, ?_, ?_, ?_, ?_, fun ha => ?_, fun a l ha hw => ?_, fun a l ha hw => ?_,
    fun a d l ha hl => ?_, fun a d l ha hl => ?_⟩
  case refine_1 =>
    have hevents : ((applyReadySwitch s).ctl.events ||| 1) ||| 0x400 = (applyReadySwitch s).ctl.events ||| 0x401 := by
      rw [BitVec.or_assoc]
      rfl
    rw [firstCutState_eq hi]
    refine (congrArg (fun c : Controller => { c with istate := .running, events := c.events ||| 0x400 }) hctl).trans ?_
    exact congrArg (fun e => { (applyReadySwitch s).ctl with istate := .running, events := e }) hevents
  case refine_2 => exact (congrArg State.clock (firstCutState_eq hi)).trans (applyReadySwitch_clock_congr rfl)
  case refine_3 => exact (congrArg State.scan (firstCutState_eq hi)).trans (applyReadySwitch_scan _)
  case refine_4 => exact (congrArg State.queue (firstCutState_eq hi)).trans (applyReadySwitch_queue _)
  case refine_5 => exact (congrArg State.mem (firstCutState_eq hi)).trans (applyReadySwitch_mem _)
  case refine_6 => exact (congrArg State.mover (firstCutState_eq hi)).trans (applyReadySwitch_mover _)
  case refine_7 => exact hpins
  case refine_8 => exact hhost
  case refine_9 =>
    exact (congrArg (fun u => u.panel.poe) (firstCutState_eq hi)).trans (congrArg Panel.poe (applyReadySwitch_panel _))
  case refine_10 => exact (congrArg State.pending (firstCutState_eq hi)).trans (applyReadySwitch_pending _)
  all_goals subst ha
  case refine_11 => rfl
  case refine_12 => exact congrArg Host.Outcome.next (if_pos (by rw [hpins]; exact hw))
  case refine_13 =>
    refine congrArg Host.Outcome.next ((if_neg (by rw [hpins, hw]; exact Bool.false_ne_true)).trans ?_)
    rw [hhost]
    rfl
  case refine_14 =>
    refine congrArg Host.Outcome.next ((if_neg (by rw [hl]; exact Bool.false_ne_true)).trans ?_)
    rw [hhost]
    rfl
  case refine_15 =>
    refine congrArg Host.Outcome.next ((if_pos hl).trans ?_)
    rw [hhost]

end Sys2Proof.Machine
end

section
/-! The words of a mover step (R109, R110) and what a reset completes and cuts short (R8, R43, R75, R118): O35 and O54. -/

namespace Sys2Proof.Machine

/-! ### The words of a step -/

/-- Word `i` of a mover step on the range that starts at `first` (R109, R110). -/
def stepAddr (m : Mover) (first : WordAddr) (i : Nat) : WordAddr :=
  match m.dir with
  | .up => BitVec.ofNat 20 (first.toNat + m.done.toNat + i)
  | .down => BitVec.ofNat 20 (first.toNat + m.length.toNat - 1 - m.done.toNat - i)

theorem stepAddrs_eq (m : Mover) (first : WordAddr) (k : Nat) : stepAddrs m first k = (List.range k).map (stepAddr m first) := rfl

/-- The lowest of the first `c` words of a step, counted from the start of the range (R109, R110). -/
def stepLow (m : Mover) (c : Nat) : Nat := if m.dir = .up then m.done.toNat else m.length.toNat - m.done.toNat - c

section
variable {m : Mover} {first : WordAddr} {c : Nat} (hc : c ≤ m.remaining) (hf : first.toNat + m.length.toNat ≤ 0x100000)
include hc hf

theorem toNat_stepAddr {i : Nat} (hi : i < c) : (stepAddr m first i).toNat =
    if m.dir = .up then first.toNat + m.done.toNat + i else first.toNat + m.length.toNat - 1 - m.done.toNat - i := by
  have h := stepAddrs_toNat (m := m) (first := first) rfl hi hc hf
  rwa [stepAddrs_eq, List.getElem?_map, List.getElem?_range hi] at h

/-- The first `c` words of a step are consecutive words of the range. -/
theorem stepAddr_iff (n : Nat) : (∃ i, i < c ∧ n = (stepAddr m first i).toNat) ↔
    first.toNat + stepLow m c ≤ n ∧ n < first.toNat + stepLow m c + c := by
  unfold Mover.remaining at hc
  unfold stepLow
  constructor
  · rintro ⟨i, hi, rfl⟩
    rw [toNat_stepAddr (m := m) hc hf hi]
    split <;> omega
  · intro hn
    by_cases hd : m.dir = .up
    · rw [if_pos hd] at hn
      refine ⟨n - first.toNat - m.done.toNat, by omega, ?_⟩
      rw [toNat_stepAddr (m := m) hc hf (by omega), if_pos hd]
      omega
    · rw [if_neg hd] at hn
      refine ⟨first.toNat + m.length.toNat - 1 - m.done.toNat - n, by omega, ?_⟩
      rw [toNat_stepAddr (m := m) hc hf (by omega), if_neg hd]
      omega

theorem stepAddr_ne {i j : Nat} (hij : i < j) (hj : j < c) : stepAddr m first i ≠ stepAddr m first j := fun h => by
  have h' := congrArg BitVec.toNat h
  rw [toNat_stepAddr hc hf (Nat.lt_trans hij hj), toNat_stepAddr hc hf hj] at h'
  unfold Mover.remaining at hc
  by_cases hd : m.dir = .up
  · rw [if_pos hd, if_pos hd] at h'
    omega
  · rw [if_neg hd, if_neg hd] at h'
    omega

/-- Memory after the first `c` words of a step are written: the byte at `b` is `v` where its word is among them (R109, R110). -/
theorem readByte_stepWrites {mem : Memory} (hw : Memory.wf mem = true) (word : Nat → Word) (b : Nat) {v : Byte}
    (hv : ∀ i, i < c → b / 2 = (stepAddr m first i).toNat → (word i).extractLsb' (8 * (b % 2)) 8 = v) :
    Memory.readByte (applyOps mem ((List.range c).map fun i => writeWordOp (stepAddr m first i) (word i))) b =
      if first.toNat + stepLow m c ≤ b / 2 ∧ b / 2 < first.toNat + stepLow m c + c then v else Memory.readByte mem b := by
  obtain ⟨hin, hout⟩ := readByte_writeWords hw (stepAddr m first) word c (fun i j => stepAddr_ne hc hf) b
  by_cases hb : ∃ i, i < c ∧ b / 2 = (stepAddr m first i).toNat
  · obtain ⟨i, hi, heq⟩ := hb
    rw [if_pos ((stepAddr_iff hc hf _).1 ⟨i, hi, heq⟩), hin i hi heq, hv i hi heq]
  · rw [if_neg fun h => hb ((stepAddr_iff hc hf _).2 h)]
    exact hout fun i hi heq => hb ⟨i, hi, heq⟩

end

/-- Word `i` of a COPY step reads the word as far from the source's start as its own is from the destination's (R110). -/
theorem toNat_stepAddr_src {m : Mover} {c i : Nat} (hc : c ≤ m.remaining) (hd : m.dst.toNat + m.length.toNat ≤ 0x100000)
    (hs : m.src.toNat + m.length.toNat ≤ 0x100000) (hi : i < c) :
    (stepAddr m m.src i).toNat = m.src.toNat + ((stepAddr m m.dst i).toNat - m.dst.toNat) := by
  rw [toNat_stepAddr hc hs hi, toNat_stepAddr hc hd hi]
  unfold Mover.remaining at hc
  split <;> omega

/-! ### The port cycles of a step, and the first of them (R109, R110) -/

theorem fillOps_eq (s : State) (k : Nat) :
    fillOps s k = (List.range k).map fun i => writeWordOp (stepAddr s.mover s.mover.dst i) s.mover.pattern := by
  rw [fillOps, stepAddrs_eq, List.map_map]
  rfl

theorem copyOps_eq (s : State) (k : Nat) : copyOps s k = ((List.range k).map (stepAddr s.mover s.mover.src)).map PortOp.read ++
    (List.range k).map fun i => writeWordOp (stepAddr s.mover s.mover.dst i) (Memory.readWord s.mem (stepAddr s.mover s.mover.src i)) := by
  rw [copyOps, stepAddrs_eq, stepAddrs_eq, List.zipWith_map, List.zipWith_self]

theorem applyOps_fill_take (s : State) (k n : Nat) : applyOps s.mem ((tenureOps s (.fillStep k)).take n) =
    applyOps s.mem ((List.range (min n k)).map fun i => writeWordOp (stepAddr s.mover s.mover.dst i) s.mover.pattern) := by
  rw [tenureOps, fillOps_eq, ← List.map_take, List.take_range]

theorem applyOps_copy_take (s : State) (k n : Nat) : applyOps s.mem ((tenureOps s (.copyStep k)).take n) =
    applyOps s.mem ((List.range (min (n - k) k)).map fun i =>
      writeWordOp (stepAddr s.mover s.mover.dst i) (Memory.readWord s.mem (stepAddr s.mover s.mover.src i))) := by
  rw [tenureOps, copyOps_eq, List.take_append, applyOps_append, ← List.map_take, applyOps_reads, List.length_map, List.length_map,
    List.length_range, ← List.map_take, List.take_range]

theorem length_fillOps (s : State) (k : Nat) : (tenureOps s (.fillStep k)).length = k := by
  rw [tenureOps, fillOps_eq, List.length_map, List.length_range]

theorem length_copyOps (s : State) (k : Nat) : (tenureOps s (.copyStep k)).length = 2 * k := by
  rw [tenureOps, copyOps_eq, List.length_append, List.length_map, List.length_map, List.length_map, List.length_range, Nat.two_mul]

section
variable {s : State} (hw : Memory.wf s.mem = true) (hd : s.mover.dst.toNat + s.mover.length.toNat ≤ 0x100000)
include hw hd

/-- Memory after the first `n` port cycles of a FILL step (R109, R118). -/
theorem readByte_fill {k : Nat} (hk : k ≤ s.mover.remaining) (hup : s.mover.dir = .up) (n b : Nat) :
    Memory.readByte (applyOps s.mem ((tenureOps s (.fillStep k)).take n)) b =
      if s.mover.dst.toNat + s.mover.done.toNat ≤ b / 2 ∧ b / 2 < s.mover.dst.toNat + s.mover.done.toNat + min n k then
        s.mover.pattern.extractLsb' (8 * (b % 2)) 8
      else Memory.readByte s.mem b := by
  have hlow : stepLow s.mover (min n k) = s.mover.done.toNat := if_pos hup
  rw [applyOps_fill_take, readByte_stepWrites (Nat.le_trans (Nat.min_le_right n k) hk) hd hw _ b fun _ _ _ => rfl, hlow]

/-- Memory after the first `n` port cycles of a COPY step: `k` reads, then the writes (R110, R118). -/
theorem readByte_copy {k : Nat} (hk : k ≤ s.mover.remaining) (hs : s.mover.src.toNat + s.mover.length.toNat ≤ 0x100000) (n b : Nat) :
    Memory.readByte (applyOps s.mem ((tenureOps s (.copyStep k)).take n)) b =
      if s.mover.dst.toNat + stepLow s.mover (min (n - k) k) ≤ b / 2 ∧
          b / 2 < s.mover.dst.toNat + stepLow s.mover (min (n - k) k) + min (n - k) k then
        Memory.readByte s.mem (2 * (s.mover.src.toNat + (b / 2 - s.mover.dst.toNat)) + b % 2)
      else Memory.readByte s.mem b := by
  have hc : min (n - k) k ≤ s.mover.remaining := Nat.le_trans (Nat.min_le_right _ k) hk
  rw [applyOps_copy_take]
  refine readByte_stepWrites hc hd hw _ b fun i hi hb => ?_
  rw [extractLsb'_readWord, toNat_stepAddr_src hc hd hs hi, ← hb]

end

/-! ### The end of a step -/

theorem exec_stepEnd_fill {s : State} {k : Nat} (ht : s.port.tenure = some (.fillStep k)) : exec .moverStepEnd s =
    .next (settle (stepEnded k ((s.withMem (memAfter s (.fillStep k))).withPort { s.port with tenure := none }))) := by
  refine congrArg Host.Outcome.next ?_
  unfold moverStepEnd
  rw [ht]
  rfl

theorem exec_stepEnd_copy {s : State} {k : Nat} (ht : s.port.tenure = some (.copyStep k)) : exec .moverStepEnd s =
    .next (settle (stepEnded k ((s.withMem (memAfter s (.copyStep k))).withPort { s.port with tenure := none }))) := by
  refine congrArg Host.Outcome.next ?_
  unfold moverStepEnd
  rw [ht]
  rfl

theorem PortSound.step_le_remaining {s : State} (h : PortSound s) {k : Nat}
    (ht : s.port.tenure = some (.fillStep k) ∨ s.port.tenure = some (.copyStep k)) : k ≤ s.mover.remaining := by
  obtain ⟨_, _, hstep⟩ := h
  rcases ht with ht | ht <;>
  · rw [ht] at hstep
    exact hstep.2.2.2.2

/-- Settles O35: the words of a FILL and of a COPY step. -/
theorem moverStepsWriteTheirWords : Obligations.MoverStepsWriteTheirWords := by
  refine ⟨fun s k ht hp hw hup hd => ⟨_, exec_stepEnd_fill ht, fun b => ?_⟩,
    fun s k ht hp hw hd hs => ⟨_, exec_stepEnd_copy ht, fun b => ?_⟩⟩
  · have hall := readByte_fill hw hd (hp.step_le_remaining (.inl ht)) hup k b
    rwa [List.take_of_length_le (Nat.le_of_eq (length_fillOps s k)), Nat.min_self] at hall
  · have hall := readByte_copy hw hd (hp.step_le_remaining (.inr ht)) hs (2 * k) b
    rwa [List.take_of_length_le (Nat.le_of_eq (length_copyOps s k)), show min (2 * k - k) k = k by omega] at hall

/-! ### Reset (R8, R43, R54, R75, R118) -/

/-- Memory when the reset has completed the write that the part held (R8). -/
theorem memAfterReset_of_write {s : State} {w : HostWrite} (h : heldWrite s = some w) (cycle : BitVec 10) (done : Bool) :
    memAfterReset cycle done s =
      Memory.writeLanes (cutTenureMem cycle done s) w.addr (laneByte0 w.data w.lanes) (laneByte1 w.data w.lanes) := by
  unfold memAfterReset
  rw [h]
  rfl

theorem memAfterReset_of_no_write {s : State} (h : heldWrite s = none) (cycle : BitVec 10) (done : Bool) :
    memAfterReset cycle done s = cutTenureMem cycle done s := by
  unfold memAfterReset
  rw [h]

theorem heldWrite_of_held {s : State} {w : HostWrite} (h : s.host.access = .writeHold w ∨ s.host.access = .writeClaim w ∨
    ∃ why due, s.host.access = .writeWait w why due) : heldWrite s = some w := by
  unfold heldWrite
  rcases h with h | h | ⟨why, due, h⟩ <;> rw [h]

theorem heldWrite_of_served {s : State} {w : HostWrite} (h : s.host.access = .inTenure ∨ s.host.access = .handedOver)
    (ht : s.port.tenure = some (.hostWrite w)) : heldWrite s = some w := by
  have hport : s.port.write = some w := by
    unfold Port.write
    rw [ht]
  unfold heldWrite
  rcases h with h | h <;> rw [h] <;> exact hport

theorem heldWrite_none {s : State}
    (h : ∀ w, s.host.access ≠ .writeHold w ∧ s.host.access ≠ .writeClaim w ∧ ∀ why due, s.host.access ≠ .writeWait w why due)
    (ht : ∀ w, s.port.tenure ≠ some (.hostWrite w)) : heldWrite s = none := by
  have hport : s.port.write = none := by
    unfold Port.write
    split
    · rename_i w hw
      exact absurd hw (ht w)
    all_goals rfl
  unfold heldWrite
  split
  · rename_i w hw
    exact absurd hw (h w).1
  · rename_i w hw
    exact absurd hw (h w).2.1
  · rename_i w why due hw
    exact absurd hw ((h w).2.2 why due)
  · exact hport
  · exact hport
  all_goals rfl

theorem dataAfterReset_of_read {s : State} {a : WordAddr} (h : heldRead s = some a) (r : State) :
    dataAfterReset s r = Memory.readWord r.mem a := by
  unfold dataAfterReset
  rw [h]

theorem heldRead_of_held {s : State} {a : WordAddr}
    (h : s.host.access = .readHold a ∨ ∃ lanes, s.host.access = .readClaim a lanes) : heldRead s = some a := by
  unfold heldRead
  rcases h with h | ⟨lanes, h⟩ <;> rw [h]

theorem heldRead_of_served {s : State} {a c : WordAddr} {l0 l1 : Option Byte}
    (h : s.host.access = .inTenure ∨ s.host.access = .handedOver) (ht : s.port.tenure = some (.hostRead a c l0 l1)) :
    heldRead s = some a := by
  have hport : s.port.readAddr = some a := by
    unfold Port.readAddr
    rw [ht]
  unfold heldRead
  rcases h with h | h <;> rw [h] <;> exact hport

theorem dataAfterReset_of_intervention {s : State} {c : ControlWord} (h : s.host.access = .interventionHold c) (r : State) :
    dataAfterReset s r = interventionAnswer r c := by
  unfold dataAfterReset heldRead heldIntervention
  rw [h]

theorem cutTenureMem_of_tenure {s : State} {t : Tenure} (h : s.port.tenure = some t) (cycle : BitVec 10) (done : Bool) :
    cutTenureMem cycle done s = applyOps s.mem ((tenureOps s t).take (cycle.toNat + if done then 1 else 0)) := by
  unfold cutTenureMem
  rw [h]

/-- The words a line fetch reads (R88). -/
theorem lineFetchOps_eq (s : State) : ∃ as : List WordAddr, lineFetchOps s = as.map PortOp.read := by
  unfold lineFetchOps
  cases entryKind (entryWord1 s) with
  | data => exact ⟨[wordOfByte s.scan.walk, wordOfByte (s.scan.walk + 2)] ++ lineAddrs s, rfl⟩
  | dark | repeated => exact ⟨[wordOfByte s.scan.walk, wordOfByte (s.scan.walk + 2)], rfl⟩

/-- A tenure that only reads leaves memory as it was where the reset cuts it (R75). -/
theorem cutTenureMem_of_reads {s : State} {t : Tenure} (h : s.port.tenure = some t) {as : List WordAddr}
    (hr : tenureOps s t = as.map PortOp.read) (cycle : BitVec 10) (done : Bool) : cutTenureMem cycle done s = s.mem := by
  rw [cutTenureMem_of_tenure h, hr, ← List.map_take, applyOps_reads]

/-- Settles O54: the held access and the tenure, by their kinds. -/
theorem resetCompletesHeldWritesAndCutsTenures : Obligations.ResetCompletesHeldWritesAndCutsTenures := by
  intro s cycle done hr
  have hreset : exec (.resetAsserted cycle done) s = .next (driveData (dataAfterReset s (resetBlocks (memAfterReset cycle done s)
      s.ctl.setup s.pins.inReset s)) (resetBlocks (memAfterReset cycle done s) s.ctl.setup s.pins.inReset s)) :=
    congrArg Host.Outcome.next (if_neg (by rw [hr]; exact Bool.false_ne_true))
  dsimp only
  rw [hreset]
  refine ⟨_, cutTenureMem cycle done s, rfl, fun w hw => memAfterReset_of_write (heldWrite_of_held hw) cycle done,
    fun w hserved ht => memAfterReset_of_write (heldWrite_of_served hserved ht) cycle done,
    fun hno hnot => memAfterReset_of_no_write (heldWrite_none hno hnot) cycle done,
    fun a ha => dataAfterReset_of_read (heldRead_of_held ha) _,
    fun a c l0 l1 hserved ht => dataAfterReset_of_read (heldRead_of_served hserved ht) _,
    fun c hc => (dataAfterReset_of_intervention hc _).trans (by cases c <;> rfl), fun ht => ?_, fun w ht => ?_, fun e ht he => ?_,
    fun k ht hp hw hup hd b => ?_, fun k ht hp hw hd hs b => ?_⟩
  · rcases ht with ht | ⟨a, c, l0, l1, ht⟩ | ⟨line, p, ht⟩
    · unfold cutTenureMem
      rw [ht]
    · exact cutTenureMem_of_reads (as := [c]) ht rfl cycle done
    · obtain ⟨as, has⟩ := lineFetchOps_eq s
      exact cutTenureMem_of_reads ht has cycle done
  · rw [cutTenureMem_of_tenure ht]
    cases cycle.toNat + if done then 1 else 0 with
    | zero => rfl
    | succ n =>
      rw [tenureOps, List.take_succ_cons, List.take_nil]
      rfl
  · rw [cutTenureMem_of_tenure ht, tenureOps, he]
  · rw [cutTenureMem_of_tenure ht]
    exact readByte_fill hw hd (hp.step_le_remaining (.inl ht)) hup _ b
  · rw [cutTenureMem_of_tenure ht]
    exact readByte_copy hw hd (hp.step_le_remaining (.inr ht)) hs _ b

end Sys2Proof.Machine
end

section
/-! The port cycles of the tenures and the memory-side pins in them (R39, R60, R62, R88, R109, R110, R170): O23. -/

namespace Sys2Proof.Machine

/-! ### The WRITING entry (R38) -/

/-- A sound queue splits at its WRITING entry, and every other entry is HELD. -/
theorem QueueSound.split_writing {q : List Entry} (h : QueueSound q) {e : Entry} (he : e ∈ q) (hw : e.isWriting = true) :
    ∃ older younger, q = older ++ e :: younger ∧ ∀ x ∈ older ++ younger, x.state = .held := by
  obtain ⟨_, _, _, hone⟩ := h
  obtain ⟨older, younger, rfl⟩ := List.append_of_mem he
  refine ⟨older, younger, rfl, fun x hx => ?_⟩
  rw [List.filter_append, List.filter_cons_of_pos hw, List.length_append, List.length_cons] at hone
  have holder : older.filter Entry.isWriting = [] := List.length_eq_zero_iff.1 (by omega)
  have hyounger : younger.filter Entry.isWriting = [] := List.length_eq_zero_iff.1 (by omega)
  have hx' : ¬ x.isWriting = true := (List.mem_append.1 hx).elim (List.filter_eq_nil_iff.1 holder x) (List.filter_eq_nil_iff.1 hyounger x)
  unfold Entry.isWriting at hx'
  cases hs : x.state with
  | held => rfl
  | writing => exact absurd (beq_iff_eq.2 hs) hx'

theorem writingEntry_of_mem {q : List Entry} (h : QueueSound q) {e : Entry} (he : e ∈ q) (hw : e.isWriting = true) :
    writingEntry q = some e := by
  obtain ⟨older, younger, rfl, hheld⟩ := h.split_writing he hw
  exact writingEntry_split (beq_iff_eq.1 hw) fun x hx => hheld x (List.mem_append_left _ hx)

/-! ### The port cycles of a retire tenure (R39) -/

/-- Word `j` of the entry's block holds a valid byte (R39). -/
def wordValid (e : Entry) (j : Nat) : Bool := (e.byteAt (2 * j)).isSome || (e.byteAt (2 * j + 1)).isSome

/-- The words of the entry's block with a valid byte, ascending (R39). -/
def validWords (e : Entry) : List Nat := (List.range 8).filter (wordValid e)

theorem retireOps_eq (e : Entry) : retireOps e =
    (validWords e).map fun j => .write (blockWord e.block j) (e.byteAt (2 * j)) (e.byteAt (2 * j + 1)) := by
  rw [validWords, ← List.filterMap_eq_map, List.filterMap_filter]
  rfl

/-- An entry marks at least one byte, so at least one word is written (R17, R39). -/
theorem validWords_length {e : Entry} (h : e.sound) : 1 ≤ (validWords e).length ∧ (validWords e).length ≤ 8 := by
  obtain ⟨hlen, hany, _⟩ := h
  obtain ⟨o, ho, hsome⟩ := List.any_eq_true.1 hany
  obtain ⟨p, hp, rfl⟩ := List.getElem_of_mem ho
  have hbyte : (e.byteAt p).isSome = true := by
    rwa [Entry.byteAt, List.getElem?_eq_getElem hp, Option.getD_some]
  have hvalid : wordValid e (p / 2) = true := by
    rw [wordValid, Bool.or_eq_true]
    rcases Nat.mod_two_eq_zero_or_one p with hpar | hpar
    · rw [show p = 2 * (p / 2) by omega] at hbyte
      exact .inl hbyte
    · rw [show p = 2 * (p / 2) + 1 by omega] at hbyte
      exact .inr hbyte
  have hmem : p / 2 ∈ validWords e := List.mem_filter.2 ⟨List.mem_range.2 (by omega), hvalid⟩
  exact ⟨List.length_pos_of_mem hmem, Nat.le_trans (List.length_filter_le _ _) (Nat.le_of_eq List.length_range)⟩

/-! ### The pins of a port cycle -/

theorem stepAddr_eq (m : Mover) (first : WordAddr) (i : Nat) : stepAddr m first i = BitVec.ofNat 20
    (if m.dir = .up then first.toNat + m.done.toNat + i else first.toNat + m.length.toNat - 1 - m.done.toNat - i) := by
  unfold stepAddr
  cases m.dir <;> rfl

theorem isSome_laneBytes (d : Word) (l : Lanes) : (⟨(laneByte0 d l).isSome, (laneByte1 d l).isSome⟩ : Lanes) = l := by
  obtain ⟨l0, l1⟩ := l
  cases l0 <;> cases l1 <;> rfl

theorem tenurePins_map {s : State} {t : Tenure} (h : ∀ w, t ≠ .hostWrite w) : tenurePins s t = (tenureOps s t).map PortOp.pins := by
  cases t with
  | hostWrite w => exact absurd rfl (h w)
  | hostRead _ _ _ _ | retire | lineFetch _ _ | fillStep _ | copyStep _ => rfl

/-- The pins of a port cycle of a tenure other than a host write. -/
theorem memPins_op {s : State} {t : Tenure} (h : HostPins) (n : Nat) (hs : sharing s = true) (ht : s.port.tenure = some t)
    (hw : ∀ w, t ≠ .hostWrite w) : memPins s h n = ((tenureOps s t)[n]?).map PortOp.pins := by
  rw [memPins_tenure h n hs ht, tenurePins_map hw, List.getElem?_map]

theorem lineFetchOps_of_data {s : State} (h : entryKind (entryWord1 s) = .data) : lineFetchOps s =
    [.read (wordOfByte s.scan.walk), .read (wordOfByte (s.scan.walk + 2))] ++ (lineAddrs s).map PortOp.read := by
  unfold lineFetchOps
  rw [h]

/-- Settles O23: the port cycles by the kind of tenure, and their pins. -/
theorem tenureLengthsInPortCycles : Obligations.TenureLengthsInPortCycles := by
  refine ⟨fun s => ⟨fun _ _ _ _ => rfl, fun _ => rfl, fun e he hw hq => ?_, fun line p => ?_, length_fillOps s, length_copyOps s⟩,
    fun s h n hs => ?_⟩
  · rw [tenureOps, writingEntry_of_mem hq he hw]
    obtain ⟨_, hsound, _⟩ := hq
    show (retireOps e).length = (validWords e).length ∧ 1 ≤ (retireOps e).length ∧ (retireOps e).length ≤ 8
    rw [retireOps_eq, List.length_map]
    exact ⟨rfl, validWords_length (hsound e he)⟩
  · by_cases hk : entryKind (entryWord1 s) = .data
    · rw [if_pos hk, tenureOps, lineFetchOps_of_data hk, List.length_append, List.length_map, lineAddrs, List.length_map, List.length_range]
      rfl
    · rw [if_neg hk, tenureOps, lineFetchOps]
      cases hd : entryKind (entryWord1 s) with
      | data => exact absurd hd hk
      | dark | repeated => rfl
  · refine ⟨fun ht => memPins_idle h n hs ht, fun t ht hn => ?_, fun a c l0 l1 ht => ?_, fun w ht => ?_, fun e ht he => ?_,
      fun line p ht => ⟨?_, ?_, fun hk hn => ?_⟩, fun k ht hn => ?_, fun k ht hn => ⟨?_, ?_⟩⟩
    · rw [memPins_tenure h n hs ht, List.getElem?_eq_none (by rwa [tenurePins_length])]
    · rw [memPins_tenure h 0 hs ht]
      rfl
    · rw [memPins_tenure h 0 hs ht]
      exact congrArg (fun l => some (MemPins.mk (some w.addr) true false true l (.word w.data))) (isSome_laneBytes w.data w.lanes)
    · rw [memPins_op h n hs ht (fun _ => Tenure.noConfusion), tenureOps, he]
      show ((retireOps e)[n]?).map PortOp.pins = _
      rw [retireOps_eq, List.getElem?_map, Option.map_map]
      rfl
    · rw [memPins_op h 0 hs ht (fun _ => Tenure.noConfusion)]
      rfl
    · rw [memPins_op h 1 hs ht (fun _ => Tenure.noConfusion)]
      rfl
    · rw [memPins_op h (2 + n) hs ht (fun _ => Tenure.noConfusion), tenureOps, lineFetchOps_of_data hk,
        List.getElem?_append_right (by exact Nat.le_add_right 2 n), lineAddrs, List.map_map, List.getElem?_map]
      show (((List.range s.lineWords)[2 + n - 2]?).map _).map _ = _
      rw [Nat.add_sub_cancel_left, List.getElem?_range hn]
      rfl
    · rw [memPins_op h n hs ht (fun _ => Tenure.noConfusion), tenureOps, fillOps_eq, List.getElem?_map, List.getElem?_range hn]
      dsimp only
      rw [← stepAddr_eq]
      rfl
    · rw [memPins_op h n hs ht (fun _ => Tenure.noConfusion), tenureOps, copyOps_eq, List.getElem?_append_left (by
        rwa [List.length_map, List.length_map, List.length_range]), List.getElem?_map, List.getElem?_map, List.getElem?_range hn]
      dsimp only
      rw [← stepAddr_eq]
      rfl
    · rw [memPins_op h (k + n) hs ht (fun _ => Tenure.noConfusion), tenureOps, copyOps_eq, List.getElem?_append_right (by
        rw [List.length_map, List.length_map, List.length_range]; exact Nat.le_add_right k n), List.length_map, List.length_map,
        List.length_range, Nat.add_sub_cancel_left, List.getElem?_map, List.getElem?_range hn]
      dsimp only
      rw [← stepAddr_eq, ← stepAddr_eq]
      rfl

end Sys2Proof.Machine
end

section
/-! The queue at COMMIT and at the cuts (R31, R34, R35): O19 and O20. -/

namespace Sys2Proof.Machine

/-! ### Folding, then a new generation for each entry (R31, R35) -/

/-- The queue after its OPEN entries are folded and each entry takes the generation `f` gives. -/
def refold (f : Generation → Generation) (q : List Entry) : List Entry := (foldOpen q).map fun e => { e with gen := f e.gen }

theorem commitQueue_eq (q : List Entry) : commitQueue q = refold committedGen q := by
  unfold commitQueue relabel refold
  refine List.map_congr_left fun e _ => ?_
  obtain ⟨_, _, g, _⟩ := e
  cases g <;> rfl

theorem drainShift_eq_refold (q : List Entry) : drainShift q = refold drainedGen q := drainShift_eq q

theorem folds_of_ne_open (q : List Entry) {e : Entry} (h : e.gen ≠ .opn) : folds q e = false := by
  rw [folds, beq_eq_false_iff_ne.2 h, Bool.false_and]

theorem foldInto_of_ne_pending (q : List Entry) {e : Entry} (h : e.gen ≠ .pending) : foldInto q e = e := by
  unfold foldInto
  split
  · exact if_neg h
  · rfl

theorem mem_refold (f : Generation → Generation) {q : List Entry} {y : Entry} (hy : y ∈ q) (hf : folds q y = false) :
    { foldInto q y with gen := f y.gen } ∈ refold f q := by
  refine List.mem_map.2 ⟨foldInto q y, List.mem_map_of_mem (List.mem_filter.2 ⟨hy, by rw [hf]; rfl⟩), ?_⟩
  rw [(foldInto_frame q y).2.1]

theorem of_mem_refold {f : Generation → Generation} {q : List Entry} {e : Entry} (h : e ∈ refold f q) :
    ∃ y ∈ q, e.block = y.block ∧ e.gen = f y.gen := by
  obtain ⟨x, hx, rfl⟩ := List.mem_map.1 h
  obtain ⟨y, hy, hb, hg, _⟩ := of_mem_foldOpen hx
  exact ⟨y, hy, hb, congrArg f hg⟩

/-- The order of the entries does not change (R18, R31). -/
theorem refold_blocks (f : Generation → Generation) (q : List Entry) : ((refold f q).map Entry.block).Sublist (q.map Entry.block) := by
  have hblocks : (refold f q).map Entry.block = (q.filter fun e => !folds q e).map Entry.block := by
    rw [refold, foldOpen, List.map_map, List.map_map]
    exact List.map_congr_left fun e _ => (foldInto_frame q e).1
  rw [hblocks]
  exact List.filter_sublist.map _

/-- No entry has a generation that `f` does not give. -/
theorem findEntry_refold_none {f : Generation → Generation} {g : Generation} (q : List Entry) (hf : ∀ x, f x ≠ g) (b : BlockNo) :
    findEntry (refold f q) b g = none :=
  findEntry_none.2 fun _ he hbg => by
    obtain ⟨y, _, _, hg⟩ := of_mem_refold he
    exact hf y.gen (hg.symm.trans hbg.2)

/-- The entries of a generation that `f` keeps are unchanged. -/
theorem findEntry_refold_same {f : Generation → Generation} {g : Generation} {q : List Entry}
    (hr : QueueSound (refold f q)) (ho : g ≠ .opn) (hp : g ≠ .pending) (hf : ∀ x, f x = g ↔ x = g) (b : BlockNo) :
    findEntry (refold f q) b g = findEntry q b g := by
  cases hq : findEntry q b g with
  | none =>
    refine findEntry_none.2 fun e he hbg => ?_
    obtain ⟨y, hy, hb, hg⟩ := of_mem_refold he
    exact findEntry_none.1 hq y hy ⟨hb.symm.trans hbg.1, (hf _).1 (hg.symm.trans hbg.2)⟩
  | some e =>
    obtain ⟨he, rfl, rfl⟩ := findEntry_some hq
    have hmem := mem_refold f he (folds_of_ne_open q ho)
    rw [foldInto_of_ne_pending q hp, (hf e.gen).2 rfl] at hmem
    exact findEntry_of_mem hr.2.2.1 hmem

theorem byteAt_overlay {o p : Entry} (ho : o.sound) (hp : p.sound) (k : Nat) :
    ({ p with bytes := overlay o.bytes p.bytes } : Entry).byteAt k = (o.byteAt k).or (p.byteAt k) := by
  obtain ⟨holen, _⟩ := ho
  obtain ⟨hplen, _⟩ := hp
  unfold Entry.byteAt
  by_cases hk : k < 16
  · rw [overlay_get (List.getElem?_eq_getElem (by omega)) (List.getElem?_eq_getElem (by omega)), List.getElem?_eq_getElem (by omega),
      List.getElem?_eq_getElem (by omega)]
    rfl
  · rw [List.getElem?_eq_none (by rw [overlay_length (by omega)]; omega), List.getElem?_eq_none (by omega),
      List.getElem?_eq_none (by omega)]
    rfl

/-- The bytes of a block in the generation that OPEN and PENDING entries take: OPEN over PENDING (R31, R35). -/
theorem byteAt_refold {f : Generation → Generation} {g : Generation} {q : List Entry} (h : QueueSound q)
    (hr : QueueSound (refold f q)) (ho : f .opn = g) (hp : f .pending = g)
    (hf : ∀ y ∈ q, f y.gen = g → y.gen = .opn ∨ y.gen = .pending) (b : BlockNo) (k : Nat) :
    (findEntry (refold f q) b g).bind (·.byteAt k) =
      ((findEntry q b .opn).bind (·.byteAt k)).or ((findEntry q b .pending).bind (·.byteAt k)) := by
  cases hqp : findEntry q b .pending with
  | some p =>
    obtain ⟨hpm, rfl, hpg⟩ := findEntry_some hqp
    have hfound : findEntry (refold f q) p.block g = some { foldInto q p with gen := g } := by
      have hmem := mem_refold f hpm (folds_of_ne_open q (by rw [hpg]; exact Generation.noConfusion))
      rw [hpg, hp] at hmem
      have hfind := findEntry_of_mem hr.2.2.1 hmem
      rwa [(foldInto_frame q p).1] at hfind
    rw [hfound]
    cases hqo : findEntry q p.block .opn with
    | none =>
      have hsame : foldInto q p = p := by
        unfold foldInto
        rw [hqo]
      rw [hsame]
      rfl
    | some o =>
      have hfold : foldInto q p = { p with bytes := overlay o.bytes p.bytes } := by
        unfold foldInto
        rw [hqo]
        exact if_pos hpg
      rw [hfold]
      exact byteAt_overlay (h.2.1 o (findEntry_some hqo).1) (h.2.1 p hpm) k
  | none =>
    cases hqo : findEntry q b .opn with
    | some o =>
      obtain ⟨hom, rfl, hog⟩ := findEntry_some hqo
      have hmem := mem_refold f hom (by
        rw [folds, hqp]
        exact Bool.and_false _)
      rw [foldInto_of_ne_pending q (by rw [hog]; exact Generation.noConfusion), hog, ho] at hmem
      rw [show findEntry (refold f q) o.block g = _ from findEntry_of_mem hr.2.2.1 hmem]
      exact (Option.or_none).symm
    | none =>
      have hnone : findEntry (refold f q) b g = none := findEntry_none.2 fun e he hbg => by
        obtain ⟨y, hy, hb, hg⟩ := of_mem_refold he
        rcases hf y hy (hg.symm.trans hbg.2) with hyg | hyg
        · exact findEntry_none.1 hqo y hy ⟨hb.symm.trans hbg.1, hyg⟩
        · exact findEntry_none.1 hqp y hy ⟨hb.symm.trans hbg.1, hyg⟩
      rw [hnone]
      rfl

/-! ### The obligations -/

/-- Settles O19: COMMIT by the state and mode, and the queue it leaves. -/
theorem commitReleasesTheOpenGeneration : Obligations.CommitReleasesTheOpenGeneration := by
  intro s hr
  rw [exec_commit hr]
  refine ⟨fun hi => congrArg Host.Outcome.next (if_pos hi), fun hi hm => ?_, fun hi hm hq =>
    ⟨commitQueue s.queue, ?_, fun b => ?_, fun b k => ?_, ?_⟩⟩
  · exact congrArg Host.Outcome.next ((if_neg (Classical.not_not.2 hi)).trans (if_pos hm))
  · exact congrArg Host.Outcome.next ((if_neg (Classical.not_not.2 hi)).trans (if_neg (Classical.not_not.2 hm)))
  all_goals
    have hsound := hq.commitQueue
    rw [commitQueue_eq] at hsound ⊢
  · exact ⟨findEntry_refold_none _ (fun x => by cases x <;> decide) b,
      findEntry_refold_same hsound Generation.noConfusion Generation.noConfusion (fun x => by cases x <;> decide) b,
      findEntry_refold_same hsound Generation.noConfusion Generation.noConfusion (fun x => by cases x <;> decide) b⟩
  · exact byteAt_refold hq hsound rfl rfl (fun y _ => by cases y.gen <;> decide) b k
  · exact refold_blocks _ _

/-- Settles O20: the shifts at the cuts. -/
theorem shiftsAtTheCuts : Obligations.ShiftsAtTheCuts := by
  refine ⟨fun q => ⟨rfl, rfl, rfl⟩, fun q hq hret => ?_⟩
  have hsound := hq.drainShift hret
  rw [drainShift_eq_refold] at hsound ⊢
  refine ⟨fun b => ⟨findEntry_refold_none _ (fun x => by cases x <;> decide) b, findEntry_refold_none _ (fun x => by cases x <;> decide) b,
      findEntry_refold_same hsound Generation.noConfusion Generation.noConfusion (fun x => by cases x <;> decide) b⟩,
    fun b k => byteAt_refold hq hsound rfl rfl (fun y hy hg => ?_) b k⟩
  have hyr := gen_ne_retiring hret hy
  revert hg hyr
  cases y.gen <;> decide

end Sys2Proof.Machine
end

section
/-! The end of a retire tenure: the bytes of the entry reach memory, and no byte's newest value changes (R39 to R41, R51, R53): O21 and O60. -/

namespace Sys2Proof.Machine

/-! ### The writes of a retire tenure (R39) -/

/-- The write of word `j` of an entry's block, with the bytes that the entry marks. -/
def entryWrite (e : Entry) (j : Nat) : PortOp := .write (blockWord e.block j) (e.byteAt (2 * j)) (e.byteAt (2 * j + 1))

theorem laneAddr_blockWord (b : BlockNo) {j : Nat} (h : j < 8) : laneAddr (blockWord b j) = 16 * b.toNat + 2 * j := by
  have hb := b.isLt
  rw [laneAddr, blockWord, BitVec.toNat_ofNat]
  omega

theorem readByte_entryWrite {m : Memory} (h : Memory.wf m = true) (e : Entry) {j : Nat} (hj : j < 8) (b : Nat) :
    Memory.readByte ((entryWrite e j).apply m) b =
      if b / 16 = e.block.toNat ∧ b % 16 / 2 = j then (e.byteAt (b % 16)).getD (Memory.readByte m b) else Memory.readByte m b := by
  show Memory.readByte (Memory.writeLanes m _ _ _) b = _
  rw [Memory.readByte_writeLanes h, laneAddr_blockWord e.block hj]
  by_cases h0 : b = 16 * e.block.toNat + 2 * j
  · rw [if_pos h0, if_pos (by omega), show b % 16 = 2 * j by omega]
  · rw [if_neg h0]
    by_cases h1 : b = 16 * e.block.toNat + 2 * j + 1
    · rw [if_pos h1, if_pos (by omega), show b % 16 = 2 * j + 1 by omega]
    · rw [if_neg h1, if_neg (by omega)]

theorem getD_getD (o : Option Byte) (v : Byte) : o.getD (o.getD v) = o.getD v := by cases o <;> rfl

/-- Memory after some words of an entry are written. -/
theorem readByte_entryWrites (e : Entry) (b : Nat) {js : List Nat} (hjs : ∀ j ∈ js, j < 8) {m : Memory} (h : Memory.wf m = true) :
    Memory.readByte (applyOps m (js.map (entryWrite e))) b =
      if b / 16 = e.block.toNat ∧ b % 16 / 2 ∈ js then (e.byteAt (b % 16)).getD (Memory.readByte m b) else Memory.readByte m b := by
  induction js generalizing m with
  | nil => exact (if_neg fun hc => List.not_mem_nil hc.2).symm
  | cons j js ih =>
    have hstep := readByte_entryWrite h e (hjs j List.mem_cons_self) b
    refine (ih (fun i hi => hjs i (List.mem_cons_of_mem _ hi)) (wf_apply h (entryWrite e j))).trans ?_
    by_cases hj : b / 16 = e.block.toNat ∧ b % 16 / 2 = j
    · rw [hstep, if_pos hj, getD_getD, ite_self, if_pos ⟨hj.1, List.mem_cons.2 (.inl hj.2)⟩]
    · rw [hstep, if_neg hj]
      refine ite_congr (propext (and_congr_right fun hb => ?_)) (fun _ => rfl) fun _ => rfl
      rw [List.mem_cons, or_iff_right fun hc => hj ⟨hb, hc⟩]

theorem byteAt_none_of_not_valid {e : Entry} {p : Nat} (h : wordValid e (p / 2) = false) : e.byteAt p = none := by
  rw [wordValid, Bool.or_eq_false_iff, Option.isSome_eq_false_iff, Option.isSome_eq_false_iff, Option.isNone_iff_eq_none,
    Option.isNone_iff_eq_none] at h
  obtain ⟨h0, h1⟩ := h
  rcases Nat.mod_two_eq_zero_or_one p with hp | hp
  · rwa [show 2 * (p / 2) = p by omega] at h0
  · rwa [show 2 * (p / 2) + 1 = p by omega] at h1

/-- Memory takes exactly the bytes that the entry marks (R39). -/
theorem readByte_retire {m : Memory} (h : Memory.wf m = true) (e : Entry) (b : Nat) :
    Memory.readByte (applyOps m (retireOps e)) b =
      if b / 16 = e.block.toNat then (e.byteAt (b % 16)).getD (Memory.readByte m b) else Memory.readByte m b := by
  rw [retireOps_eq]
  refine (readByte_entryWrites e b (fun j hj => List.mem_range.1 (List.mem_filter.1 hj).1) h).trans ?_
  by_cases hb : b / 16 = e.block.toNat
  · rw [if_pos hb]
    by_cases hv : wordValid e (b % 16 / 2) = true
    · rw [if_pos ⟨hb, List.mem_filter.2 ⟨List.mem_range.2 (by omega), hv⟩⟩]
    · rw [if_neg fun hc => hv (List.mem_filter.1 hc.2).2, byteAt_none_of_not_valid (Bool.eq_false_iff.2 hv)]
      rfl
  · rw [if_neg hb, if_neg fun hc => hb hc.1]

/-! ### The end of the tenure (R40, R41) -/

theorem memAfter_retire {s : State} {e : Entry} (h : writingEntry s.queue = some e) :
    memAfter s .retire = applyOps s.mem (retireOps e) := by
  rw [memAfter, tenureOps, h]

/-- The end of the tenure of the entry that is WRITING. -/
theorem exec_retireTenureEnd {s : State} {older younger : List Entry} {e : Entry} (ht : s.port.tenure = some .retire)
    (hq : s.queue = older ++ e :: younger) (he : e.state = .writing) (hh : ∀ x ∈ older ++ younger, x.state = .held) :
    exec .retireTenureEnd s = .next (settle (raiseIf (e.gen == .retiring && !hasGen (older ++ younger) .retiring) .visible
      (noteWait true true (((s.withMem (applyOps s.mem (retireOps e))).withQueue (older ++ younger)).withPort
        { s.port with tenure := none })))) := by
  have hwriting : writingEntry s.queue = some e := by
    rw [hq]
    exact writingEntry_split he fun x hx => hh x (List.mem_append_left _ hx)
  have hleft : removeWriting s.queue = older ++ younger := by
    rw [hq]
    exact removeWriting_split he hh
  have hend : retireTenureEnd s = settle (Machine.endTenure (raiseIf (visibleNow s.queue) .visible
      (noteWait true true ((s.withMem (memAfter s .retire)).withQueue (removeWriting s.queue))))) := by
    unfold retireTenureEnd
    rw [ht]
  refine congrArg Host.Outcome.next (hend.trans ?_)
  rw [← raiseIf_endTenure, ← noteWait_endTenure, visibleNow, hwriting, hleft, memAfter_retire hwriting]
  rfl

/-- Settles O21: the end of a retire tenure. -/
theorem retireTenureWritesItsEntry : Obligations.RetireTenureWritesItsEntry := fun _ _ _ e ht hq he hh hw =>
  ⟨_, exec_retireTenureEnd ht hq he hh, readByte_retire hw e⟩

/-! ### The newest value of a byte (R45, R53) -/

theorem queueByte_append (q r : List Entry) (b : BlockNo) (k : Nat) : queueByte (q ++ r) b k = (queueByte r b k).or (queueByte q b k) := by
  rw [queueByte, List.reverse_append, List.findSome?_append]
  rfl

theorem queueByte_cons (e : Entry) (q : List Entry) (b : BlockNo) (k : Nat) :
    queueByte (e :: q) b k = (queueByte q b k).or (if e.block = b then e.byteAt k else none) := by
  rw [← List.singleton_append, queueByte_append]
  refine congrArg (Option.or _) ?_
  show List.findSome? _ [e] = _
  rw [List.findSome?_singleton]

/-- The grant of a retire tenure changes the bytes of no entry (R37). -/
theorem queueByte_startRetire (m : Mover) (q : List Entry) (b : BlockNo) (k : Nat) : queueByte (startRetire m q) b k = queueByte q b k := by
  induction q with
  | nil => rfl
  | cons e q ih =>
    unfold startRetire
    split
    · rw [queueByte_cons, queueByte_cons]
      rfl
    · rw [queueByte_cons, queueByte_cons, ih]

theorem queueByte_settle (s : State) (b : BlockNo) (k : Nat) : queueByte (settle s).queue b k = queueByte s.queue b k := by
  rcases settle_cases s with h | ⟨_, _, ⟨line, _, h⟩ | ⟨_, _, h⟩ | ⟨_, _, h⟩ | ⟨_, _, h⟩⟩
  · rw [h]
  · rw [h, grantFetch_queue]
  · rw [h, grantHost_queue]
  · rw [h]
    exact queueByte_startRetire _ _ _ _
  · rw [h]
    rfl

/-- The newest value of a byte depends on memory, the queue's bytes and the mover only (R45). -/
theorem resolvedByte_congr {s t : State} (hm : t.mem = s.mem) (hv : t.mover = s.mover)
    (hq : ∀ b k, queueByte t.queue b k = queueByte s.queue b k) (a : WordAddr) (odd : Bool) :
    resolvedByte t a odd = resolvedByte s a odd := by
  have hlane : laneSource t a odd = laneSource s a odd := by
    unfold laneSource
    rw [hq, hv]
  unfold resolvedByte
  rw [hlane, hm, hv]

theorem resolvedByte_settle (s : State) (a : WordAddr) (odd : Bool) : resolvedByte (settle s) a odd = resolvedByte s a odd :=
  resolvedByte_congr (settle_mem s) (settle_mover s) (queueByte_settle s) a odd

/-! ### The copy source of a byte (R48) -/

/-- The copy source of an unfinished destination word lies in the unfinished source range (R48, R108). -/
theorem has_srcRange_copySource {m : Mover} (h : MoverSound m) {a : WordAddr} (ha : inDest m .copy a = true) :
    (srcRange m).has (copySourceWord m a).toNat = true := by
  obtain ⟨hk, hdest⟩ := (inDest_iff _ _ _).1 ha
  obtain ⟨hact, hrange⟩ := (has_destRange_iff _ _).1 hdest
  obtain ⟨_, hd, hs⟩ := h.2 hact
  have hsrc := hs hk
  refine (has_srcRange_iff _ _).2 ⟨hact, hk, ?_⟩
  rw [has_unfinished_iff] at hrange ⊢
  have hc : (copySourceWord m a).toNat = m.src.toNat + (a.toNat - m.dst.toNat) := by
    have ha := a.isLt
    rw [copySourceWord, BitVec.toNat_add, BitVec.toNat_sub]
    split at hrange <;> omega
  rw [hc]
  by_cases hd : m.dir = .up
  · rw [if_pos hd] at hrange ⊢
    omega
  · rw [if_neg hd] at hrange ⊢
    omega

/-! ### The obligation -/

/-- The byte of a word is at the word's place in its block. -/
theorem byte_in_block (a : WordAddr) (odd : Bool) :
    (laneAddr a + if odd then 1 else 0) / 16 = (blockOf a).toNat ∧
      (laneAddr a + if odd then 1 else 0) % 16 = 2 * (a.toNat % 8) + if odd then 1 else 0 := by
  rw [toNat_blockOf, laneAddr]
  cases odd
  · show (2 * a.toNat + 0) / 16 = _ ∧ (2 * a.toNat + 0) % 16 = 2 * (a.toNat % 8) + 0
    omega
  · show (2 * a.toNat + 1) / 16 = _ ∧ (2 * a.toNat + 1) % 16 = 2 * (a.toNat % 8) + 1
    omega

theorem resolvedByte_of_queueByte {s : State} {a : WordAddr} {odd : Bool} {v : Byte}
    (h : queueByte s.queue (blockOf a) (2 * (a.toNat % 8) + if odd then 1 else 0) = some v) : resolvedByte s a odd = v :=
  resolvedByte_of_supplied (by rw [laneSource_of_queue h]; rfl)

theorem resolvedByte_of_no_entry {s : State} {a : WordAddr} {odd : Bool}
    (h : queueByte s.queue (blockOf a) (2 * (a.toNat % 8) + if odd then 1 else 0) = none) : resolvedByte s a odd =
      if inDest s.mover .fill a then (if odd then hiByte s.mover.pattern else loByte s.mover.pattern)
      else if inDest s.mover .copy a then
        Memory.readByte s.mem (laneAddr (copySourceWord s.mover a) + if odd then 1 else 0)
      else Memory.readByte s.mem (laneAddr a + if odd then 1 else 0) := by
  have hlane := laneSource_of_no_entry h
  unfold resolvedByte
  by_cases hfill : inDest s.mover .fill a = true
  · rw [hlane.trans (if_pos hfill), if_pos hfill]
  · rw [if_neg hfill]
    by_cases hcopy : inDest s.mover .copy a = true
    · rw [hlane.trans ((if_neg hfill).trans (if_pos hcopy)), if_pos hcopy]
    · rw [hlane.trans ((if_neg hfill).trans (if_neg hcopy)), if_neg hcopy]

/-- No older entry shares the block of a WRITING one (R20, R38). -/
theorem queueByte_older {older younger : List Entry} {e : Entry} (h : QueueSound (older ++ e :: younger)) (he : e.state = .writing)
    (k : Nat) : queueByte older e.block k = none := by
  obtain ⟨_, hsound, hage, _⟩ := h
  refine queueByte_none fun x hx hb => ?_
  have hxe := (List.pairwise_append.1 hage).2.2 x hx e List.mem_cons_self hb
  obtain ⟨_, _, hgen⟩ := hsound e (List.mem_append_right _ List.mem_cons_self)
  exfalso
  rcases hgen he with hg | hg <;> rw [hg] at hxe <;>
    exact hxe.elim (fun hc => hc.2.elim Generation.noConfusion Generation.noConfusion) fun hc => Generation.noConfusion hc.2

/-- No word of a block that the mover does not meet is in its destination or its source (R36, R108). -/
theorem not_inDest_of_clear {m : Mover} {a : WordAddr} (h : moverMeets m (blockOf a) = false) (kind : MoverKind) :
    ¬ inDest m kind a = true := fun hc =>
  Bool.eq_false_iff.1 ((moverMeets_false_iff m a).1 h a.toNat rfl).1 ((inDest_iff _ _ _).1 hc).2

section
variable {s u : State} {older younger : List Entry} {e : Entry} (h : PartSound s) (hw : Memory.wf s.mem = true)
  (hq : s.queue = older ++ e :: younger) (he : e.state = .writing)
  (hm : u.mem = applyOps s.mem (retireOps e)) (huq : u.queue = older ++ younger) (hv : u.mover = s.mover)
include h hw hq he hm huq hv

/-- A retirement changes the newest value of no byte (R51, R53). -/
theorem resolvedByte_retire (a : WordAddr) (odd : Bool) : resolvedByte u a odd = resolvedByte s a odd := by
  obtain ⟨hsound, hplaced, _, hmover, _⟩ := h
  have hclear : moverMeets s.mover e.block = false := (hplaced e (by rw [hq]; exact List.mem_append_right _ List.mem_cons_self)).2.1 he
  have hbyte : ∀ c : WordAddr, Memory.readByte u.mem (laneAddr c + if odd then 1 else 0) =
      ((if e.block = blockOf c then e.byteAt (2 * (c.toNat % 8) + if odd then 1 else 0) else none)).getD
        (Memory.readByte s.mem (laneAddr c + if odd then 1 else 0)) := fun c => by
    obtain ⟨hblock, hplace⟩ := byte_in_block c odd
    rw [hm, readByte_retire hw, hblock, hplace]
    by_cases hb : e.block = blockOf c
    · rw [if_pos hb, if_pos (congrArg BitVec.toNat hb).symm]
    · rw [if_neg hb, if_neg fun hc => hb (BitVec.eq_of_toNat_eq hc.symm)]
      rfl
  have hs : ∀ k, queueByte s.queue (blockOf a) k = (queueByte younger (blockOf a) k).or
      ((if e.block = blockOf a then e.byteAt k else none).or (queueByte older (blockOf a) k)) := fun k => by
    rw [hq, queueByte_append, queueByte_cons, Option.or_assoc]
  have hu : ∀ k, queueByte u.queue (blockOf a) k = (queueByte younger (blockOf a) k).or (queueByte older (blockOf a) k) := fun k => by
    rw [huq, queueByte_append]
  replace hs := hs (2 * (a.toNat % 8) + if odd then 1 else 0)
  replace hu := hu (2 * (a.toNat % 8) + if odd then 1 else 0)
  have hown := hbyte a
  cases hy : queueByte younger (blockOf a) (2 * (a.toNat % 8) + if odd then 1 else 0) with
  | some v =>
    rw [hy, Option.some_or] at hs hu
    rw [resolvedByte_of_queueByte hs, resolvedByte_of_queueByte hu]
  | none =>
    rw [hy, Option.none_or] at hs hu
    cases hmark : (if e.block = blockOf a then e.byteAt (2 * (a.toNat % 8) + if odd then 1 else 0) else none) with
    | some v =>
      have hb : e.block = blockOf a := by
        refine Classical.byContradiction fun hne => ?_
        rw [if_neg hne] at hmark
        cases hmark
      have hnone := queueByte_older (by rwa [hq] at hsound) he (2 * (a.toNat % 8) + if odd then 1 else 0)
      rw [hb] at hnone
      replace hu := hu.trans hnone
      rw [hmark, Option.some_or] at hs
      rw [hmark, Option.getD_some] at hown
      rw [hb] at hclear
      rw [resolvedByte_of_queueByte hs, resolvedByte_of_no_entry hu, hv, if_neg (not_inDest_of_clear hclear _),
        if_neg (not_inDest_of_clear hclear _), hown]
    | none =>
      rw [hmark, Option.none_or] at hs
      rw [hmark, Option.getD_none] at hown
      cases ho : queueByte older (blockOf a) (2 * (a.toNat % 8) + if odd then 1 else 0) with
      | some v => rw [resolvedByte_of_queueByte (hs.trans ho), resolvedByte_of_queueByte (hu.trans ho)]
      | none =>
        rw [resolvedByte_of_no_entry (hs.trans ho), resolvedByte_of_no_entry (hu.trans ho), hv, hown]
        by_cases hcopy : inDest s.mover .copy a = true
        · have hne : e.block ≠ blockOf (copySourceWord s.mover a) := fun hb => by
            rw [hb, moverMeets_false_iff] at hclear
            exact Bool.eq_false_iff.1 (hclear _ rfl).2 (has_srcRange_copySource hmover hcopy)
          have hsource := hbyte (copySourceWord s.mover a)
          rw [if_neg hne, Option.getD_none] at hsource
          rw [hsource]
        · rw [if_neg hcopy, if_neg hcopy]

end

/-- Settles O60: memory takes what the queue gave. -/
theorem retirementKeepsTheNewestBytes : Obligations.RetirementKeepsTheNewestBytes := by
  intro s t h hw ht hx a odd
  obtain ⟨e, he, hwr⟩ := List.any_eq_true.1 (h.tenure_isRetire.symm.trans (by rw [ht]; rfl))
  obtain ⟨older, younger, hq, hheld⟩ := h.1.split_writing he hwr
  have hwriting : e.state = .writing := beq_iff_eq.1 hwr
  obtain rfl := Host.Outcome.next.inj ((exec_retireTenureEnd ht hq hwriting hheld).symm.trans hx)
  rw [resolvedByte_settle]
  refine resolvedByte_retire h hw hq hwriting ?_ ?_ ?_ a odd
  · rw [raiseIf_mem, noteWait_mem]
    rfl
  · rw [raiseIf_queue, noteWait_queue]
    rfl
  · rw [raiseIf_mover, noteWait_mover]
    rfl

end Sys2Proof.Machine
end
